-- ==== Sys2Proof/Word.lean ====
section
/-! DEFINITION. The value widths of the engine (00_scope.md R11) and the small named sets of values that command
fields and primitives take (R3; 30_encoding.md R83, R85). -/

namespace Sys2Proof

/-- A nibble: the `OP`, `PRIM`, `VAR` fields, a PHOTON cell. -/
abbrev Nibble := BitVec 4
/-- A byte, 8 bits. -/
abbrev Byte := BitVec 8
/-- A 16-bit word: a GIFT key word, a Grain half word. -/
abbrev Half := BitVec 16
/-- A word, 32 bits: the host data width and a `STATE` word. -/
abbrev Word := BitVec 32
/-- A doubleword, 64 bits: an Ascon state word. -/
abbrev DWord := BitVec 64

/-- The eight primitives, codes 0 to 7 in this order (00_scope.md R3, 30_encoding.md R83). -/
inductive Prim where
  | gift | skinny | ascon | grain | sparkle | jambu | photon | xoodoo
deriving DecidableEq, Repr

/-- The output word width of `ROUNDS.GRAIN`, VAR bit 0 `WID` (30_encoding.md R85). -/
inductive GrainWidth where
  | w32 | w16
deriving DecidableEq, Repr

/-- The mode of `ROUNDS.GRAIN`, VAR bit 1 `INIT` (30_encoding.md R85). -/
inductive GrainMode where
  | gen | init
deriving DecidableEq, Repr

/-- The number of branches B of `ROUNDS.SPARKLE`: 4, 6 or 8 (30_encoding.md R85). -/
inductive Branches where
  | b4 | b6 | b8
deriving DecidableEq, Repr

/-- The error codes a rejection records in `STATUS.ECODE` (60_exceptions.md R340). `eNone` is the value after reset
and is never recorded by a rejection; codes 0x9 to 0xF do not exist. -/
inductive ErrorCode where
  | eNone | eOp | ePrim | eField | eCombo | eRange | eVar | eLayout | eMat
deriving DecidableEq, Repr

end Sys2Proof
end

