-- ==== Sys2Proof/Config.lean ====
section
/-! DEFINITION. What an implementation fixes and the spec leaves OPEN (00_scope.md R10), and the free values of the
model. An `opaque` constant has no body: nothing can be proved about its value. `PRIM_PRESENT` is no constant here: it
is the state field `primPresent` (the register `CAP`), so that statements hold for every build. -/

namespace Sys2Proof

/-- `PRIM_PRESENT` of the reference configuration: every primitive is built in (00_scope.md R10). -/
def Config.referencePresent : Byte := 0xFF#8

/-- Which 0x200-byte block of the host bus holds the window. OPEN (92_eei_decisions.md D2); no rule depends on it. -/
opaque Config.engineBlock : Nat

/-- `ENGINE_BASE`: the host bus address of window offset 0, a multiple of 0x200 (00_scope.md R10). -/
def Config.engineBase : Nat := 0x200 * Config.engineBlock

/-- The host bus address of a window offset (20_memory.md R50). -/
def Config.busAddress (off : BitVec 9) : Nat := Config.engineBase + off.toNat

/-- `LAT(c)` less one. OPEN; a function of the command word alone (70_reset_and_hazards.md R392, R394). -/
opaque Config.extraLatency : Word → Nat

/-- `LAT(c)`: engine clock cycles from acceptance to completion, at least 1 (R392). The model has no time, so no step
reads it. -/
def Config.latency (c : Word) : Nat := Config.extraLatency c + 1

/-- The value the n-th read of `DATA` or `STATE` during a command returns: any 32-bit value (20_memory.md R63).
A free value, log entry 3. -/
opaque Config.freeRead : Nat → Word

end Sys2Proof
end

