-- ==== Sys2Proof/Syntax.lean ====
section
/-! DEFINITION. The commands of the engine, one constructor per row of spec/opcode_table.json (30_encoding.md R92).
Operands are the fields the row uses (R84); values of `VAR` are named, so no illegal `VAR` can be written. -/

namespace Sys2Proof

/-- The 29 commands. `start` and `count` are the 8-bit fields START and COUNT (30_encoding.md R80, R88). -/
inductive Instr where
  | nop
  | clear
  | tointGift
  | tointSkinny
  | tointAscon
  | tointGrain
  | tointSparkle
  | tointJambu
  | tointPhoton
  | tointXoodoo
  | toextGift
  | toextSkinny
  | toextAscon
  | toextGrain
  | toextSparkle
  | toextJambu
  | toextPhoton
  | toextXoodoo
  | schedGift
  | schedSkinny
  | schedJambu
  | roundsGift (start count : Byte)
  | roundsSkinny (start count : Byte)
  | roundsAscon (start count : Byte)
  | roundsGrain (count : Byte) (width : GrainWidth) (mode : GrainMode)
  | roundsSparkle (start count : Byte) (branches : Branches)
  | roundsJambu (count : Byte)
  | roundsPhoton (start count : Byte)
  | roundsXoodoo (start count : Byte)
deriving DecidableEq, Repr

end Sys2Proof
end

