-- ==== Sys2Proof/WellFormed.lean ====
section
/-! DEFINITION. Which commands are well formed: the range constraints on START and COUNT (30_encoding.md R86).
Every other constraint of the encoding (R84, R85) is already in the syntax. -/

namespace Sys2Proof

/-- START + COUNT, as an integer (30_encoding.md R81), is at most the primitive's number of rounds. -/
def roundsWithin (limit : Nat) (start count : Byte) : Bool := start.toNat + count.toNat ≤ limit

/-- The range constraints of 30_encoding.md R86, one line per constrained command. -/
def Instr.wellFormed : Instr → Bool
  | .roundsGift start count => roundsWithin 40 start count
  | .roundsSkinny start count => roundsWithin 40 start count
  | .roundsAscon start count => roundsWithin 12 start count
  | .roundsPhoton start count => roundsWithin 12 start count
  | .roundsXoodoo start count => roundsWithin 12 start count
  | .roundsGrain count .w32 _ => count.toNat ≤ 8
  | .roundsGrain count .w16 _ => count.toNat ≤ 16
  | .roundsSparkle _ _ _ | .roundsJambu _ => true
  | .nop | .clear
  | .tointGift | .tointSkinny | .tointAscon | .tointGrain | .tointSparkle | .tointJambu | .tointPhoton | .tointXoodoo
  | .toextGift | .toextSkinny | .toextAscon | .toextGrain | .toextSparkle | .toextJambu | .toextPhoton | .toextXoodoo
  | .schedGift | .schedSkinny | .schedJambu => true

end Sys2Proof
end

