-- ==== Sys2Proof/Decode.lean ====
section
/-! DEFINITION. The decoder of command words, total over the 2^32 words and rejecting by error code (30_encoding.md
R80 to R93; 60_exceptions.md R341 checks 1 to 8), then the encoder, both from the encoding tables of 30_encoding.md. -/

namespace Sys2Proof

/-! ## Codes -/

/-- The `PRIM` code of a primitive (30_encoding.md R83). -/
def Prim.code : Prim → Nibble
  | .gift => 0x0#4
  | .skinny => 0x1#4
  | .ascon => 0x2#4
  | .grain => 0x3#4
  | .sparkle => 0x4#4
  | .jambu => 0x5#4
  | .photon => 0x6#4
  | .xoodoo => 0x7#4

/-- The primitive of a `PRIM` code; codes 0x8 to 0xF are reserved (30_encoding.md R83). -/
def Prim.ofCode (p : Nibble) : Option Prim :=
  match p.toNat with
  | 0 => some .gift
  | 1 => some .skinny
  | 2 => some .ascon
  | 3 => some .grain
  | 4 => some .sparkle
  | 5 => some .jambu
  | 6 => some .photon
  | 7 => some .xoodoo
  | _ => none

/-- The primitives that take key material (40_control.md R112). -/
def Prim.keyed : Prim → Bool
  | .gift | .skinny | .jambu => true
  | .ascon | .grain | .sparkle | .photon | .xoodoo => false

/-- The 4-bit value recorded in `ECODE` (60_exceptions.md R340). -/
def ErrorCode.code : ErrorCode → Nibble
  | .eNone => 0x0#4
  | .eOp => 0x1#4
  | .ePrim => 0x2#4
  | .eField => 0x3#4
  | .eCombo => 0x4#4
  | .eRange => 0x5#4
  | .eVar => 0x6#4
  | .eLayout => 0x7#4
  | .eMat => 0x8#4

/-- B, the number of branches (30_encoding.md R85). -/
def Branches.number : Branches → Nat
  | .b4 => 4
  | .b6 => 6
  | .b8 => 8

/-- `VAR` of `ROUNDS.SPARKLE`: (B - 4) / 2 (30_encoding.md R85, R91). -/
def Branches.var : Branches → Nibble
  | .b4 => 0x0#4
  | .b6 => 0x1#4
  | .b8 => 0x2#4

/-- The branches a `VAR` value names; 0x3 to 0xF name none (30_encoding.md R85). -/
def Branches.ofVar (v : Nibble) : Option Branches :=
  match v.toNat with
  | 0 => some .b4
  | 1 => some .b6
  | 2 => some .b8
  | _ => none

/-- `VAR` of `ROUNDS.GRAIN`: bit 0 `WID`, bit 1 `INIT` (30_encoding.md R85, R91). -/
def grainVar (width : GrainWidth) (mode : GrainMode) : Nibble :=
  (match mode with | .init => 2#4 | .gen => 0#4) + (match width with | .w16 => 1#4 | .w32 => 0#4)

/-- The width that `VAR` bit 0 selects. -/
def grainWidthOf (v : Nibble) : GrainWidth := if v.getLsbD 0 then .w16 else .w32

/-- The mode that `VAR` bit 1 selects. -/
def grainModeOf (v : Nibble) : GrainMode := if v.getLsbD 1 then .init else .gen

/-! ## Fields (30_encoding.md R80, R81) -/

def opField (c : Word) : Nibble := c.extractLsb' 0 4
def primField (c : Word) : Nibble := c.extractLsb' 4 4
def startField (c : Word) : Byte := c.extractLsb' 8 8
def countField (c : Word) : Byte := c.extractLsb' 16 8
def varField (c : Word) : Nibble := c.extractLsb' 24 4
def rsvField (c : Word) : Nibble := c.extractLsb' 28 4

/-- The `OP` values that name an operation (30_encoding.md R82). -/
def opToint : Nat := 2
def opToext : Nat := 3
def opSched : Nat := 4
def opRounds : Nat := 5

/-! ## The encoding checks of 60_exceptions.md R341 -/

/-- Check 3's condition: the primitive code is reserved, or its `CAP` bit is 0. -/
def primAbsent (cap : Byte) (p : Nibble) : Bool := 8 ≤ p.toNat || !cap.getLsbD p.toNat

/-- Does the (OP, PRIM) pair use START (30_encoding.md R84)? -/
def usesStart (op : Nat) (p : Option Prim) : Bool :=
  op == opRounds &&
    match p with
    | some .gift | some .skinny | some .ascon | some .photon | some .xoodoo | some .sparkle => true
    | some .grain | some .jambu | none => false

/-- Does the (OP, PRIM) pair use COUNT (30_encoding.md R84)? -/
def usesCount (op : Nat) (_p : Option Prim) : Bool := op == opRounds

/-- Does the (OP, PRIM) pair use VAR (30_encoding.md R84)? -/
def usesVar (op : Nat) (p : Option Prim) : Bool :=
  op == opRounds &&
    match p with
    | some .sparkle | some .grain => true
    | some .gift | some .skinny | some .ascon | some .photon | some .xoodoo | some .jambu | none => false

/-- Check 6's condition: a field that (OP, PRIM) does not use is nonzero (30_encoding.md R84). -/
def unusedFieldSet (c : Word) : Bool :=
  let op := (opField c).toNat
  let p := Prim.ofCode (primField c)
  (!usesStart op p && startField c != 0#8) || (!usesCount op p && countField c != 0#8) ||
    (!usesVar op p && varField c != 0#4)

/-- Check 7's condition: VAR is illegal for PRIM (30_encoding.md R85). -/
def varIllegal (c : Word) : Bool :=
  match Prim.ofCode (primField c) with
  | some .sparkle => 3 ≤ (varField c).toNat
  | some .grain => (varField c).extractLsb' 2 2 != 0#2
  | some .gift | some .skinny | some .ascon | some .photon | some .xoodoo | some .jambu | none => false

/-- Check 8's condition: (START, COUNT, VAR) is out of range for PRIM (30_encoding.md R86). -/
def outOfRange (c : Word) : Bool :=
  let sum := (startField c).toNat + (countField c).toNat
  match Prim.ofCode (primField c) with
  | some .gift | some .skinny => 40 < sum
  | some .ascon | some .photon | some .xoodoo => 12 < sum
  | some .grain =>
    match grainWidthOf (varField c) with
    | .w32 => 8 < (countField c).toNat
    | .w16 => 16 < (countField c).toNat
  | some .sparkle | some .jambu | none => false

/-- Checks 1 to 8 of 60_exceptions.md R341, in order: the first that holds gives the code; `none` if none holds.
`cap` is `PRIM_PRESENT`. -/
def encodingCheck (cap : Byte) (c : Word) : Option ErrorCode :=
  let op := (opField c).toNat
  if 6 ≤ op then some .eOp
  else if rsvField c != 0#4 then some .eField
  else if 2 ≤ op && primAbsent cap (primField c) then some .ePrim
  else if op == opSched && !((Prim.ofCode (primField c)).any Prim.keyed) then some .eCombo
  else if op < 2 && primField c != 0#4 then some .eField
  else if unusedFieldSet c then some .eField
  else if op == opRounds && varIllegal c then some .eVar
  else if op == opRounds && outOfRange c then some .eRange
  else none

/-! ## Decoding (30_encoding.md R92, R93) -/

/-- The row of 30_encoding.md R92 that the fields OP and PRIM of a word select, with its operands. -/
def rowOf (c : Word) : Option Instr :=
  match (opField c).toNat, Prim.ofCode (primField c) with
  | 0, _ => some .nop
  | 1, _ => some .clear
  | 2, some .gift => some .tointGift
  | 2, some .skinny => some .tointSkinny
  | 2, some .ascon => some .tointAscon
  | 2, some .grain => some .tointGrain
  | 2, some .sparkle => some .tointSparkle
  | 2, some .jambu => some .tointJambu
  | 2, some .photon => some .tointPhoton
  | 2, some .xoodoo => some .tointXoodoo
  | 3, some .gift => some .toextGift
  | 3, some .skinny => some .toextSkinny
  | 3, some .ascon => some .toextAscon
  | 3, some .grain => some .toextGrain
  | 3, some .sparkle => some .toextSparkle
  | 3, some .jambu => some .toextJambu
  | 3, some .photon => some .toextPhoton
  | 3, some .xoodoo => some .toextXoodoo
  | 4, some .gift => some .schedGift
  | 4, some .skinny => some .schedSkinny
  | 4, some .jambu => some .schedJambu
  | 5, some .gift => some (.roundsGift (startField c) (countField c))
  | 5, some .skinny => some (.roundsSkinny (startField c) (countField c))
  | 5, some .ascon => some (.roundsAscon (startField c) (countField c))
  | 5, some .grain => some (.roundsGrain (countField c) (grainWidthOf (varField c)) (grainModeOf (varField c)))
  | 5, some .sparkle => (Branches.ofVar (varField c)).map (.roundsSparkle (startField c) (countField c))
  | 5, some .jambu => some (.roundsJambu (countField c))
  | 5, some .photon => some (.roundsPhoton (startField c) (countField c))
  | 5, some .xoodoo => some (.roundsXoodoo (startField c) (countField c))
  | _, _ => none

/-- The decoder: the error code of the first failing encoding check, or the word's row (30_encoding.md R93). After the
checks a row always exists, so the last line's `.error` is never reached. -/
def decode (cap : Byte) (c : Word) : Except ErrorCode Instr :=
  match encodingCheck cap c with
  | some e => .error e
  | none =>
    match rowOf c with
    | some i => .ok i
    | none => .error .eOp

/-! ## Encoding (30_encoding.md R80, R91, R92) -/

/-- A command word from its fields, RSV = 0 (30_encoding.md R80). -/
def commandWord (op prim : Nibble) (start count : Byte) (var : Nibble) : Word :=
  0#4 ++ var ++ count ++ start ++ prim ++ op

/-- A command word whose START, COUNT and VAR are 0. -/
def plainWord (op : Nibble) (p : Prim) : Word := commandWord op p.code 0#8 0#8 0#4

/-- The word of a command (30_encoding.md R91, R92). -/
def encode : Instr → Word
  | .nop => commandWord 0#4 0#4 0#8 0#8 0#4
  | .clear => commandWord 1#4 0#4 0#8 0#8 0#4
  | .tointGift => plainWord 2#4 .gift
  | .tointSkinny => plainWord 2#4 .skinny
  | .tointAscon => plainWord 2#4 .ascon
  | .tointGrain => plainWord 2#4 .grain
  | .tointSparkle => plainWord 2#4 .sparkle
  | .tointJambu => plainWord 2#4 .jambu
  | .tointPhoton => plainWord 2#4 .photon
  | .tointXoodoo => plainWord 2#4 .xoodoo
  | .toextGift => plainWord 3#4 .gift
  | .toextSkinny => plainWord 3#4 .skinny
  | .toextAscon => plainWord 3#4 .ascon
  | .toextGrain => plainWord 3#4 .grain
  | .toextSparkle => plainWord 3#4 .sparkle
  | .toextJambu => plainWord 3#4 .jambu
  | .toextPhoton => plainWord 3#4 .photon
  | .toextXoodoo => plainWord 3#4 .xoodoo
  | .schedGift => plainWord 4#4 .gift
  | .schedSkinny => plainWord 4#4 .skinny
  | .schedJambu => plainWord 4#4 .jambu
  | .roundsGift start count => commandWord 5#4 Prim.gift.code start count 0#4
  | .roundsSkinny start count => commandWord 5#4 Prim.skinny.code start count 0#4
  | .roundsAscon start count => commandWord 5#4 Prim.ascon.code start count 0#4
  | .roundsGrain count width mode => commandWord 5#4 Prim.grain.code 0#8 count (grainVar width mode)
  | .roundsSparkle start count b => commandWord 5#4 Prim.sparkle.code start count b.var
  | .roundsJambu count => commandWord 5#4 Prim.jambu.code 0#8 count 0#4
  | .roundsPhoton start count => commandWord 5#4 Prim.photon.code start count 0#4
  | .roundsXoodoo start count => commandWord 5#4 Prim.xoodoo.code start count 0#4

/-- The columns "match" and "mask" of 30_encoding.md R92, copied from that table. -/
def Instr.matchAndMask : Instr → Word × Word
  | .nop => (0x00000000#32, 0xFFFFFFFF#32)
  | .clear => (0x00000001#32, 0xFFFFFFFF#32)
  | .tointGift => (0x00000002#32, 0xFFFFFFFF#32)
  | .tointSkinny => (0x00000012#32, 0xFFFFFFFF#32)
  | .tointAscon => (0x00000022#32, 0xFFFFFFFF#32)
  | .tointGrain => (0x00000032#32, 0xFFFFFFFF#32)
  | .tointSparkle => (0x00000042#32, 0xFFFFFFFF#32)
  | .tointJambu => (0x00000052#32, 0xFFFFFFFF#32)
  | .tointPhoton => (0x00000062#32, 0xFFFFFFFF#32)
  | .tointXoodoo => (0x00000072#32, 0xFFFFFFFF#32)
  | .toextGift => (0x00000003#32, 0xFFFFFFFF#32)
  | .toextSkinny => (0x00000013#32, 0xFFFFFFFF#32)
  | .toextAscon => (0x00000023#32, 0xFFFFFFFF#32)
  | .toextGrain => (0x00000033#32, 0xFFFFFFFF#32)
  | .toextSparkle => (0x00000043#32, 0xFFFFFFFF#32)
  | .toextJambu => (0x00000053#32, 0xFFFFFFFF#32)
  | .toextPhoton => (0x00000063#32, 0xFFFFFFFF#32)
  | .toextXoodoo => (0x00000073#32, 0xFFFFFFFF#32)
  | .schedGift => (0x00000004#32, 0xFFFFFFFF#32)
  | .schedSkinny => (0x00000014#32, 0xFFFFFFFF#32)
  | .schedJambu => (0x00000054#32, 0xFFFFFFFF#32)
  | .roundsGift _ _ => (0x00000005#32, 0xFF0000FF#32)
  | .roundsSkinny _ _ => (0x00000015#32, 0xFF0000FF#32)
  | .roundsAscon _ _ => (0x00000025#32, 0xFF0000FF#32)
  | .roundsGrain _ _ _ => (0x00000035#32, 0xF000FFFF#32)
  | .roundsSparkle _ _ _ => (0x00000045#32, 0xF00000FF#32)
  | .roundsJambu _ => (0x00000055#32, 0xFF00FFFF#32)
  | .roundsPhoton _ _ => (0x00000065#32, 0xFF0000FF#32)
  | .roundsXoodoo _ _ => (0x00000075#32, 0xFF0000FF#32)

/-- A word is a command's row when it agrees with the row's match under its mask (30_encoding.md R92). -/
def Instr.rowMatches (i : Instr) (c : Word) : Bool := c &&& i.matchAndMask.2 == i.matchAndMask.1

/-- The primitive a command names; `NOP` and `CLEAR` name none (30_encoding.md R84). -/
def Instr.prim? : Instr → Option Prim
  | .nop | .clear => none
  | .tointGift | .toextGift | .schedGift | .roundsGift _ _ => some .gift
  | .tointSkinny | .toextSkinny | .schedSkinny | .roundsSkinny _ _ => some .skinny
  | .tointAscon | .toextAscon | .roundsAscon _ _ => some .ascon
  | .tointGrain | .toextGrain | .roundsGrain _ _ _ => some .grain
  | .tointSparkle | .toextSparkle | .roundsSparkle _ _ _ => some .sparkle
  | .tointJambu | .toextJambu | .schedJambu | .roundsJambu _ => some .jambu
  | .tointPhoton | .toextPhoton | .roundsPhoton _ _ => some .photon
  | .tointXoodoo | .toextXoodoo | .roundsXoodoo _ _ => some .xoodoo

/-- The build `cap` contains every primitive the command names (60_exceptions.md R342). -/
def Instr.builtIn (cap : Byte) (i : Instr) : Bool :=
  match i.prim? with
  | none => true
  | some p => cap.getLsbD p.code.toNat

/-! ## Pseudo-instructions (30_encoding.md R91): other spellings of `ROUNDS` words -/

/-- The pseudo-instructions; `PERMUTE` of a permutation of 12 rounds takes n of 0 to 12 (30_encoding.md R91). -/
inductive Pseudo where
  | permuteAscon (n : Fin 13)
  | permuteXoodoo (n : Fin 13)
  | permutePhoton (n : Fin 13)
  | permuteSparkle (branches : Branches) (n : Byte)
  | encryptGift
  | encryptSkinny
  | keystreamGrain (n : Byte)
deriving DecidableEq, Repr

/-- The expansion of a pseudo-instruction: a `PERMUTE` of n of 12 rounds runs the last n (30_encoding.md R89, R91). -/
def Pseudo.expand : Pseudo → Instr
  | .permuteAscon n => .roundsAscon (BitVec.ofNat 8 (12 - n.val)) (BitVec.ofNat 8 n.val)
  | .permuteXoodoo n => .roundsXoodoo (BitVec.ofNat 8 (12 - n.val)) (BitVec.ofNat 8 n.val)
  | .permutePhoton n => .roundsPhoton (BitVec.ofNat 8 (12 - n.val)) (BitVec.ofNat 8 n.val)
  | .permuteSparkle branches n => .roundsSparkle 0#8 n branches
  | .encryptGift => .roundsGift 0#8 40#8
  | .encryptSkinny => .roundsSkinny 0#8 40#8
  | .keystreamGrain n => .roundsGrain n .w32 .gen

/-- The instruction the decoder of the reference configuration reads from a word whose bits are w, numbered as
spec/opcode_table.json numbers them; bits from nbits up are 0. A command has 32 bits (30_encoding.md R80). -/
def decodeTableWord (nbits w : Nat) : Option Instr :=
  let bits := w % 2 ^ nbits
  if bits < 2 ^ 32 then (decode 0xFF#8 (BitVec.ofNat 32 bits)).toOption else none

end Sys2Proof
end

