-- ==== Sys2Proof/Machine/State.lean ====
section
/-! DEFINITION. The state of the engine and of its bus (10_state.md R21), as plain data, and its value at reset (R42).
`BUSY`, `IRQ`, `CTRL`, `STATUS` and `CMD` are views of these fields, in Machine/Flags.lean. -/

namespace Sys2Proof.Machine

/-- What ends an access in an error. No step stops with it: the bus error response of 20_memory.md R56 changes no engine
state and the engine goes on, so it is recorded in `responses` (log entry 4). -/
inductive Fault where
  /-- A narrow or misaligned access. Recorded by `hostRead` and `hostWrite`; `step` never stops with it. Safe: nothing
  of the engine's state changes (20_memory.md R56, 60_exceptions.md R376). -/
  | busError
deriving DecidableEq, Repr

/-- What a step may refuse. The engine refuses nothing (60_exceptions.md R376). -/
inductive Refusal where
  /-- An instruction without a meaning. Raised only by an arm of `exec` that is still rejected by name; safe: the model
  stops. No arm is. -/
  | notModelled (mnemonic : String)
deriving DecidableEq, Repr

/-- Host-addressable byte memory: pairs of a window offset and a byte, offsets strictly rising, no byte equal to 0, which
is what an unlisted offset reads as (10_state.md R42: every byte of `DATA` and `KEY` is 0 after reset). -/
abbrev Memory := List Host.Cell

/-- The sixteen `STATE` words `W[0..15]` (10_state.md R24). -/
abbrev Words := Vector Word 16

/-- The 48 bytes `MKEY` (10_state.md R28). -/
abbrev Material := Vector Byte 48

/-- One turn: who acts next on the engine (10_state.md R20; 60_exceptions.md R351; 70_reset_and_hazards.md R380). `host` is
the number of the bus master that issues an access: the engine does not tell hosts apart (60_exceptions.md R372), but a run is
one host's (70_reset_and_hazards.md R395). -/
inductive Turn where
  /-- A host read of `bytes` bytes at a window offset (20_memory.md R50, R52). -/
  | read (host : Nat) (off : BitVec 9) (bytes : Nat)
  /-- A host write of `bytes` bytes at a window offset (20_memory.md R50, R53). -/
  | write (host : Nat) (off : BitVec 9) (bytes : Nat) (value : Word)
  /-- The engine's step: completion of the command in flight, nothing when there is none (60_exceptions.md R351). -/
  | engine
  /-- The platform asserts reset (70_reset_and_hazards.md R380). -/
  | assertReset
  /-- The platform releases reset (70_reset_and_hazards.md R380). -/
  | releaseReset
deriving DecidableEq, Repr

/-- What the bus answers to one access (20_memory.md R52, R56; 70_reset_and_hazards.md R395). -/
inductive BusResponse where
  | readData (value : Word)
  /-- What a read of `DATA` or `STATE` returns while `BUSY` = 1: a value that is not specified (20_memory.md R63) and that no
  observation includes (70_reset_and_hazards.md R395). -/
  | freeData (value : Word)
  | writeDone
  /-- The error response to a read, with the value the read returns beside it (20_memory.md R56). -/
  | readError (reason : Fault) (value : Word)
  /-- The error response to a write (20_memory.md R56). -/
  | writeError (reason : Fault)
deriving DecidableEq, Repr

/-- One answer on the bus and the host whose access it answers. -/
structure Answer where
  host : Nat
  response : BusResponse
deriving DecidableEq, Repr

/-- Everything the spec gives the machine (10_state.md R21), then the model's own fields. -/
structure State where
  /-- `W[0..15]`, the `STATE` word file (R24). -/
  w : Words
  /-- `DATA[0..63]` at 0x100 and `KEY[0..47]` at 0x140 (R26, R27). -/
  mem : Memory
  /-- `MKEY[0..47]` (R28). -/
  mkey : Material
  /-- `MPRIM` (R28, R30). -/
  mprim : Nibble
  /-- `MVALID` (R28, R30). -/
  mvalid : Bool
  /-- `LPRIM` (R30). -/
  lprim : Nibble
  /-- `LVALID` (R30). -/
  lvalid : Bool
  /-- `CTRL.IE_DONE` (R29). -/
  ieDone : Bool
  /-- `CTRL.IE_ERR` (R29). -/
  ieErr : Bool
  /-- `STATUS.DONE` (R30). -/
  done : Bool
  /-- `STATUS.ERR` (R30). -/
  err : Bool
  /-- `STATUS.OVR` (R30). -/
  ovr : Bool
  /-- `STATUS.ECODE` (R30, R340). -/
  ecode : ErrorCode
  /-- `ECMD` (R32). -/
  ecmd : Word
  /-- `PEND`: the command in flight; valid (`some`) exactly while `BUSY` = 1 (R34). -/
  pend : Option Word
  /-- `PRIM_PRESENT`, the build's mask that `CAP` reports; no step changes it (R23). -/
  primPresent : Byte
  /-- The reset input is asserted (R380). -/
  inReset : Bool
  /-- The model's: the turns still to come, next first (log entry 1). -/
  agenda : List Turn
  /-- The model's: what the bus answered, newest first (R395; log entry 4). -/
  responses : List Answer
  /-- The model's: how many free values have been drawn (R63; log entry 3). -/
  draws : Nat
deriving DecidableEq, Repr

/-- The machine right after reset (10_state.md R42) in the reference configuration (00_scope.md R10), nothing to come. -/
def State.reset : State where
  w := Vector.replicate 16 0#32
  mem := []
  mkey := Vector.replicate 48 0#8
  mprim := 0#4
  mvalid := false
  lprim := 0#4
  lvalid := false
  ieDone := false
  ieErr := false
  done := false
  err := false
  ovr := false
  ecode := .eNone
  ecmd := 0#32
  pend := none
  primPresent := Config.referencePresent
  inReset := false
  agenda := []
  responses := []
  draws := 0

/-- What a meaning and a step answer. -/
abbrev Result := Host.Outcome State Fault Refusal

end Sys2Proof.Machine
end

