-- ==== Sys2Proof/Machine/Flags.lean ====
section
/-! DEFINITION. The register views of the flags: `ID`, `CAP`, `CTRL`, `STATUS` and the `IRQ` output (10_state.md R22, R23,
R29 to R31, R35). There are no condition codes (R37). -/

namespace Sys2Proof.Machine

/-- `ID` (10_state.md R22). -/
def engineId : Word := 0x0430AEAD#32

/-- `CAP`: `PRIM_PRESENT`, zero-extended (10_state.md R23). -/
def State.cap (s : State) : Word := s.primPresent.setWidth 32

/-- `BUSY`: a command is in flight (10_state.md R30, R34). -/
def State.busy (s : State) : Bool := s.pend.isSome

/-- `CTRL` as read: `2·IE_ERR + IE_DONE` (10_state.md R29; 20_memory.md R54). -/
def State.ctrl (s : State) : Word := 0#30 ++ BitVec.ofBool s.ieErr ++ BitVec.ofBool s.ieDone

/-- `STATUS` as read (10_state.md R30), reserved bits 0. -/
def State.status (s : State) : Word :=
  0#3 ++ BitVec.ofBool s.mvalid ++ s.mprim ++ 0#3 ++ BitVec.ofBool s.lvalid ++ s.lprim ++ 0#4 ++ s.ecode.code ++ 0#4 ++
    BitVec.ofBool s.ovr ++ BitVec.ofBool s.err ++ BitVec.ofBool s.done ++ BitVec.ofBool s.busy

/-- The `IRQ` output (10_state.md R35). -/
def State.irq (s : State) : Bool := (s.done && s.ieDone) || ((s.err || s.ovr) && s.ieErr)

/-- A host write to `CTRL` (10_state.md R29). -/
def State.writeCtrl (s : State) (v : Word) : State := { s with ieDone := v.getLsbD 0, ieErr := v.getLsbD 1 }

/-- A host write to `STATUS`: write one to clear `DONE`, `ERR`, `OVR` (10_state.md R31). This is also how the host
acknowledges a rejection; there is no other return from one (60_exceptions.md R363). -/
def State.writeStatus (s : State) (v : Word) : State :=
  { s with done := s.done && !v.getLsbD 1, err := s.err && !v.getLsbD 2, ovr := s.ovr && !v.getLsbD 3 }

end Sys2Proof.Machine
end

