-- ==== Sys2Proof/Machine/Operands.lean ====
section
/-! DEFINITION. The operand forms of commands: bytes and words in both byte orders (00_scope.md R13), the words a primitive
uses (10_state.md R25), 128-bit shift registers held in four words, and the round loop (00_scope.md R14; 30_encoding.md
R88). -/

namespace Sys2Proof.Machine

/-! ## Fixed files of like things -/

/-- The vector whose entry i is `f i`. -/
def tabulate {α : Type} (n : Nat) (f : Fin n → α) : Vector α n := ⟨⟨List.ofFn f⟩, by simp⟩

/-- The word file whose first words are `vs` and whose other words are those of `w`. -/
def overlay (w : Words) (vs : List Word) : Words := tabulate 16 fun i => (vs[i.val]?).getD w[i]

/-- The word file with word `k` replaced; no word when `k` is above 15. -/
def setWord (w : Words) (k : Nat) (v : Word) : Words := tabulate 16 fun i => if i.val = k then v else w[i]

/-- The first `n` words of a word file. -/
def firstWords (n : Nat) (w : Words) : List Word := w.toList.take n

/-! ## Byte order (00_scope.md R13) -/

/-- Byte i of a word, byte 0 the least significant. -/
def byteOf (v : Word) (i : Nat) : Byte := v.extractLsb' (8 * i) 8

/-- `LE32` of four bytes, the first least significant. -/
def le32 (a b c d : Byte) : Word := d ++ c ++ b ++ a

/-- `BE32` of four bytes, the first most significant. -/
def be32 (a b c d : Byte) : Word := a ++ b ++ c ++ d

/-- `putLE32`: the four bytes of a word, least significant first. -/
def putLE32 (v : Word) : List Byte := [byteOf v 0, byteOf v 1, byteOf v 2, byteOf v 3]

/-- `putBE32`: the four bytes of a word, most significant first. -/
def putBE32 (v : Word) : List Byte := [byteOf v 3, byteOf v 2, byteOf v 1, byteOf v 0]

/-- The little-endian words of a byte string. -/
def le32Words : List Byte → List Word
  | a :: b :: c :: d :: rest => le32 a b c d :: le32Words rest
  | _ => []

/-- The big-endian words of a byte string. -/
def be32Words : List Byte → List Word
  | a :: b :: c :: d :: rest => be32 a b c d :: be32Words rest
  | _ => []

/-- The big-endian doublewords of a byte string, each as its low word, then its high word (41_layout.md R138). -/
def be64WordPairs : List Byte → List Word
  | a :: b :: c :: d :: e :: f :: g :: h :: rest => be32 e f g h :: be32 a b c d :: be64WordPairs rest
  | _ => []

/-- The bytes of words, each little-endian. -/
def le32Bytes : List Word → List Byte
  | [] => []
  | v :: rest => putLE32 v ++ le32Bytes rest

/-- The bytes of words, each big-endian. -/
def be32Bytes : List Word → List Byte
  | [] => []
  | v :: rest => putBE32 v ++ be32Bytes rest

/-- The bytes of doublewords given as low and high word, each big-endian (41_layout.md R139). -/
def be64Bytes : List Word → List Byte
  | lo :: hi :: rest => putBE32 hi ++ putBE32 lo ++ be64Bytes rest
  | _ => []

/-! ## Primitives -/

/-- How many `STATE` words a primitive uses (10_state.md R25). -/
def primWords : Prim → Nat
  | .gift => 4
  | .skinny => 4
  | .ascon => 10
  | .grain => 16
  | .sparkle => 16
  | .jambu => 4
  | .photon => 8
  | .xoodoo => 12

/-! ## 128-bit registers in four words (41_layout.md R140, R144): bit i is bit i mod 32 of word i / 32 -/

/-- The register held in four words, the first lowest. -/
def pack128 (v0 v1 v2 v3 : Word) : BitVec 128 := v3 ++ v2 ++ v1 ++ v0

/-- The four words of a register, the lowest first. -/
def unpack128 (r : BitVec 128) : List Word :=
  [r.extractLsb' 0 32, r.extractLsb' 32 32, r.extractLsb' 64 32, r.extractLsb' 96 32]

/-- One shift towards index 0 with a new bit at index 127 (45_grain.md R241, 47_jambu.md R281). -/
def shiftIn (r : BitVec 128) (bit : Bool) : BitVec 128 := BitVec.ofBool bit ++ r.extractLsb' 1 127

/-! ## Rounds -/

/-- The loop `for r in start .. start+count-1`, indices rising (00_scope.md R14, 30_encoding.md R88). -/
def roundsFrom {α : Type} (round : Nat → α → α) (start : Nat) : Nat → α → α
  | 0, x => x
  | count + 1, x => roundsFrom round (start + 1) count (round start x)

/-- The 6-bit constant generator of 42_gift.md R167 and 43_skinny.md R194 after n updates, from 0. -/
def lfsr6 : Nat → BitVec 6
  | 0 => 0#6
  | n + 1 =>
    let c := lfsr6 n
    (c <<< 1) ||| (BitVec.ofBool (c.getLsbD 5 ^^ c.getLsbD 4 ^^ true)).setWidth 6

end Sys2Proof.Machine
end

