-- ==== Sys2Proof/Machine/Ops.lean ====
section
/-! DEFINITION. The shared operations: byte memory, the material store, the checks and the rejection of a command, its
acceptance and its completion (60_exceptions.md R341, R350, R351), and the frame every meaning runs in. -/

namespace Sys2Proof.Machine

/-! ## Byte memory -/

/-- The byte at an offset; 0 where nothing is listed (10_state.md R42). -/
def Memory.read : Memory → Nat → Byte
  | [], _ => 0#8
  | (b, u) :: rest, a => if b = a then u else Memory.read rest a

/-- Store a byte, keeping the canonical form: storing 0 removes the entry. -/
def Memory.write : Memory → Nat → Byte → Memory
  | [], a, v => if v = 0#8 then [] else [(a, v)]
  | (b, u) :: rest, a, v =>
    if a < b then (if v = 0#8 then (b, u) :: rest else (a, v) :: (b, u) :: rest)
    else if a = b then (if v = 0#8 then rest else (a, v) :: rest)
    else (b, u) :: Memory.write rest a v

/-- Store bytes at rising offsets from `a`. -/
def Memory.writeBytes (m : Memory) (a : Nat) : List Byte → Memory
  | [] => m
  | v :: rest => Memory.writeBytes (m.write a v) (a + 1) rest

/-- The `n` bytes from offset `a`. -/
def Memory.readBytes (m : Memory) (a n : Nat) : List Byte := (List.range n).map fun i => m.read (a + i)

/-- `LE32` at an offset (20_memory.md R51). -/
def Memory.readWord (m : Memory) (a : Nat) : Word := le32 (m.read a) (m.read (a + 1)) (m.read (a + 2)) (m.read (a + 3))

/-- `putLE32` at an offset (20_memory.md R51). -/
def Memory.writeWord (m : Memory) (a : Nat) (v : Word) : Memory := m.writeBytes a (putLE32 v)

/-- The canonical form from offset `low` on: offsets rising, no byte 0. -/
def Memory.wfFrom (low : Nat) : Memory → Bool
  | [] => true
  | (b, u) :: rest => decide (low ≤ b) && u != 0#8 && Memory.wfFrom (b + 1) rest

/-- The canonical form of a memory. -/
def Memory.wf (m : Memory) : Bool := Memory.wfFrom 0 m

/-- Offset of `DATA[0]` (20_memory.md R54). -/
def dataBase : Nat := 0x100
/-- Offset of `KEY[0]` (20_memory.md R54). -/
def keyBase : Nat := 0x140
/-- Offset of `W[0]` (20_memory.md R54). -/
def stateBase : Nat := 0x180

/-- `DATA[i]` (10_state.md R26). -/
def State.data (s : State) (i : Nat) : Byte := s.mem.read (dataBase + i)

/-- `KEY[i]` (10_state.md R27). -/
def State.key (s : State) (i : Nat) : Byte := s.mem.read (keyBase + i)

/-- `DATA[0..n-1]`. -/
def State.dataBytes (s : State) (n : Nat) : List Byte := s.mem.readBytes dataBase n

/-- The 48 bytes of `KEY`, as `SCHED` copies them (40_control.md R112). -/
def State.keySnapshot (s : State) : Material := tabulate 48 fun i => s.key i.val

/-! ## Tags (10_state.md R39, R40) -/

/-- The build contains the primitive (60_exceptions.md R342). -/
def State.present (s : State) (p : Prim) : Bool := s.primPresent.getLsbD p.code.toNat

/-- `LVALID` = 1 and `LPRIM` = p. -/
def State.layoutIs (s : State) (p : Prim) : Bool := s.lvalid && s.lprim == p.code

/-- `MVALID` = 1 and `MPRIM` = p. -/
def State.materialIs (s : State) (p : Prim) : Bool := s.mvalid && s.mprim == p.code

/-- Set the layout tag (41_layout.md R131). -/
def State.tagLayout (s : State) (p : Prim) : State := { s with lprim := p.code, lvalid := true }

/-! ## Rejection, acceptance, completion -/

/-- TAKING A REJECTION, the engine's only exception (60_exceptions.md R341, R343, R362): the error record is written and
nothing else changes. -/
def State.reject (s : State) (e : ErrorCode) (c : Word) : State := { s with err := true, ecode := e, ecmd := c }

/-- Acceptance: `PEND` becomes valid and with it `BUSY` (60_exceptions.md R350). -/
def State.accept (s : State) (c : Word) : State := { s with pend := some c }

/-- The command in flight ends: `PEND` not valid, `BUSY` = 0. -/
def State.retire (s : State) : State := { s with pend := none }

/-- The end of completion: `DONE` <- 1, `BUSY` <- 0, `PEND` not valid (60_exceptions.md R351). -/
def State.finish (s : State) : State := { s with done := true, pend := none }

/-- A write lost while a command is in flight sets `OVR` (70_reset_and_hazards.md R384). -/
def State.overrun (s : State) : State := { s with ovr := true }

/-- The bus answers an access. -/
def State.respond (s : State) (r : Answer) : State := { s with responses := r :: s.responses }

/-! ## The checks of 60_exceptions.md R341 -/

/-- Checks 9 and 10, on the tags: `E_LAYOUT`, then `E_MAT`. -/
def tagCheck (s : State) (c : Word) : Option ErrorCode :=
  let op := (opField c).toNat
  if (op == opToext || op == opRounds) && !(s.lvalid && s.lprim == primField c) then some .eLayout
  else if op == opRounds && (Prim.ofCode (primField c)).any Prim.keyed && !(s.mvalid && s.mprim == primField c) then
    some .eMat
  else none

/-- All ten checks in order; `none` accepts the word. -/
def issueCheck (s : State) (c : Word) : Option ErrorCode :=
  match encodingCheck s.primPresent c with
  | some e => some e
  | none => tagCheck s c

/-- A host write of `c` to `CMD` (60_exceptions.md R350). -/
def State.issue (s : State) (c : Word) : State :=
  if s.busy then s.overrun
  else
    match issueCheck s c with
    | some e => s.reject e c
    | none => s.accept c

/-! ## The frame of every meaning -/

/-- The code of the first requirement that does not hold. -/
def firstFailing : List (Bool × ErrorCode) → Option ErrorCode
  | [] => none
  | (holds, e) :: rest => if holds then firstFailing rest else some e

/-- The requirement that the primitive is built in (60_exceptions.md R342). -/
def needPresent (s : State) (p : Prim) : Bool × ErrorCode := (s.present p, .ePrim)

/-- The requirement on the layout tag (10_state.md R39). -/
def needLayout (s : State) (p : Prim) : Bool × ErrorCode := (s.layoutIs p, .eLayout)

/-- The requirement on the material tag (10_state.md R40). -/
def needMaterial (s : State) (p : Prim) : Bool × ErrorCode := (s.materialIs p, .eMat)

/-- The requirement on START + COUNT (30_encoding.md R86). -/
def needRounds (limit : Nat) (start count : Byte) : Bool × ErrorCode :=
  (decide (start.toNat + count.toNat ≤ limit), .eRange)

/-- Run the command whose word is `c`: `raise` the code of the first requirement that fails (00_scope.md R13), else perform
its effect and complete (60_exceptions.md R351). A command that its acceptance checked fails no requirement (R344); log
entry 5 says what the model does in the states where one does. -/
def runCommand (c : Word) (needs : List (Bool × ErrorCode)) (effect : State) (s : State) : Result :=
  match firstFailing needs with
  | some e => .next (s.reject e c).retire
  | none => .next effect.finish

end Sys2Proof.Machine
end

