-- ==== Sys2Proof/Machine/Bus.lean ====
section
/-! DEFINITION. Host accesses: the address map (20_memory.md R54), illegal accesses (R56), reads and writes while a command
is in flight (R63; 70_reset_and_hazards.md R384), and the reset input (R380). -/

namespace Sys2Proof.Machine

/-- What stands at a window offset (20_memory.md R54). `data`, `key` and `state` carry the word's offset. -/
inductive Region where
  | id | cap | ctrl | status | cmd | ecmd
  | data (off : Nat)
  | key (off : Nat)
  | state (index : Nat)
  | reserved
deriving DecidableEq, Repr

/-- The address map (20_memory.md R54), for offsets that are multiples of 4. -/
def regionOf (off : Nat) : Region :=
  if off = 0x000 then .id
  else if off = 0x004 then .cap
  else if off = 0x008 then .ctrl
  else if off = 0x00C then .status
  else if off = 0x010 then .cmd
  else if off = 0x014 then .ecmd
  else if off < 0x100 then .reserved
  else if off < 0x140 then .data off
  else if off < 0x170 then .key off
  else if off < 0x180 then .reserved
  else if off < 0x1C0 then .state ((off - stateBase) / 4)
  else .reserved

/-- The only legal access: 32 bits at a multiple of 4 (20_memory.md R50). -/
def legalAccess (off : BitVec 9) (bytes : Nat) : Bool := bytes == 4 && off.toNat % 4 == 0

/-- The value a region reads as, no command being in flight (20_memory.md R54). -/
def readRegion (s : State) : Region → Word
  | .id => engineId
  | .cap => s.cap
  | .ctrl => s.ctrl
  | .status => s.status
  | .cmd => 0#32
  | .ecmd => s.ecmd
  | .data off => s.mem.readWord off
  | .key _ => 0#32
  | .state k => (s.w[k]?).getD 0#32
  | .reserved => 0#32

/-- The regions whose reads return any value while `BUSY` = 1 (20_memory.md R63). -/
def Region.unspecifiedWhileBusy : Region → Bool
  | .data _ | .state _ => true
  | .id | .cap | .ctrl | .status | .cmd | .ecmd | .key _ | .reserved => false

/-- A legal host read: the region's value, or a free value drawn for it (20_memory.md R52, R63). -/
def readWindow (s : State) (host off : Nat) : State :=
  if s.busy && (regionOf off).unspecifiedWhileBusy then
    { s with draws := s.draws + 1 }.respond ⟨host, .freeData (Config.freeRead s.draws)⟩
  else s.respond ⟨host, .readData (readRegion s (regionOf off))⟩

/-- A write to `DATA` or `KEY`: dropped with `OVR` while a command is in flight (20_memory.md R54, R384). -/
def writeBuffer (s : State) (off : Nat) (v : Word) : State :=
  if s.busy then s.overrun else { s with mem := s.mem.writeWord off v }

/-- The effect of a legal host write on a region (20_memory.md R54). -/
def writeRegion (s : State) (v : Word) : Region → State
  | .ctrl => s.writeCtrl v
  | .status => s.writeStatus v
  | .cmd => s.issue v
  | .data off => writeBuffer s off v
  | .key off => writeBuffer s off v
  | .id | .cap | .ecmd | .state _ | .reserved => s

/-- A host read: ignored while reset is asserted (R380), an error response when illegal (20_memory.md R56). -/
def hostRead (s : State) (host : Nat) (off : BitVec 9) (bytes : Nat) : State :=
  if s.inReset then s.respond ⟨host, .readData 0#32⟩
  else if legalAccess off bytes then readWindow s host off.toNat
  else s.respond ⟨host, .readError .busError 0#32⟩

/-- A host write: ignored while reset is asserted (R380), an error response when illegal (20_memory.md R56). -/
def hostWrite (s : State) (host : Nat) (off : BitVec 9) (bytes : Nat) (v : Word) : State :=
  if s.inReset then s.respond ⟨host, .writeDone⟩
  else if legalAccess off bytes then (writeRegion s v (regionOf off.toNat)).respond ⟨host, .writeDone⟩
  else s.respond ⟨host, .writeError .busError⟩

/-- Every item of 10_state.md R42 at its reset value. What does not belong to the engine's state stays: the build, the
reset input, and the model's own fields. -/
def State.resetItems (s : State) : State :=
  { State.reset with
    primPresent := s.primPresent
    inReset := s.inReset
    agenda := s.agenda
    responses := s.responses
    draws := s.draws }

/-- The platform asserts reset: the command in flight is abandoned (70_reset_and_hazards.md R380). -/
def State.assertReset (s : State) : State := { s.resetItems with inReset := true }

/-- The platform releases reset: every item holds its reset value; a release of a reset that is not asserted is no event
(70_reset_and_hazards.md R380; log entry 8). -/
def State.releaseReset (s : State) : State := if s.inReset then { s.resetItems with inReset := false } else s

end Sys2Proof.Machine
end

