-- ==== Sys2Proof/Machine/Ascon.lean ====
section
/-! DEFINITION. `ROUNDS.ASCON`: the Ascon permutation (44_ascon.md). -/

namespace Sys2Proof.Machine

/-- The five 64-bit words x0 … x4 (44_ascon.md R220). -/
structure AsconState where
  x0 : DWord
  x1 : DWord
  x2 : DWord
  x3 : DWord
  x4 : DWord
deriving DecidableEq, Repr

/-- `c_r = ((0xF − r) << 4) | r` (44_ascon.md R222). -/
def asconConstant (r : Nat) : DWord := BitVec.ofNat 64 (((0xF - r) <<< 4) ||| r)

/-- AddConstant of round r (44_ascon.md R222). -/
def asconAddConstant (r : Nat) (x : AsconState) : AsconState := { x with x2 := x.x2 ^^^ asconConstant r }

/-- The substitution layer in bitsliced form (44_ascon.md R223). -/
def asconSubstitution (x : AsconState) : AsconState :=
  let x0 := x.x0 ^^^ x.x4
  let x1 := x.x1
  let x4 := x.x4 ^^^ x.x3
  let x2 := x.x2 ^^^ x.x1
  let x3 := x.x3
  let t0 := ~~~x0 &&& x1
  let t1 := ~~~x1 &&& x2
  let t2 := ~~~x2 &&& x3
  let t3 := ~~~x3 &&& x4
  let t4 := ~~~x4 &&& x0
  let x0 := x0 ^^^ t1
  let x1 := x1 ^^^ t2
  let x2 := x2 ^^^ t3
  let x3 := x3 ^^^ t4
  let x4 := x4 ^^^ t0
  let x1 := x1 ^^^ x0
  let x0 := x0 ^^^ x4
  let x3 := x3 ^^^ x2
  let x2 := ~~~x2
  { x0 := x0, x1 := x1, x2 := x2, x3 := x3, x4 := x4 }

/-- A word with two rotations of itself (44_ascon.md R224). -/
def asconMix (a b : Nat) (x : DWord) : DWord := x ^^^ x.rotateRight a ^^^ x.rotateRight b

/-- The linear diffusion layer (44_ascon.md R224). -/
def asconLinear (x : AsconState) : AsconState where
  x0 := asconMix 19 28 x.x0
  x1 := asconMix 61 39 x.x1
  x2 := asconMix 1 6 x.x2
  x3 := asconMix 10 17 x.x3
  x4 := asconMix 7 41 x.x4

/-- Round r: constant, substitution, diffusion (44_ascon.md R221). -/
def asconRound (r : Nat) (x : AsconState) : AsconState := asconLinear (asconSubstitution (asconAddConstant r x))

/-- `x[i] = W[2i+1] ‖ W[2i]` (44_ascon.md R220). -/
def asconLoad (w : Words) : AsconState where
  x0 := w[1] ++ w[0]
  x1 := w[3] ++ w[2]
  x2 := w[5] ++ w[4]
  x3 := w[7] ++ w[6]
  x4 := w[9] ++ w[8]

/-- The low and the high word of a doubleword. -/
def lowHigh (x : DWord) : List Word := [x.extractLsb' 0 32, x.extractLsb' 32 32]

/-- x0 … x4 as words (44_ascon.md R220). -/
def asconStore (x : AsconState) : List Word :=
  lowHigh x.x0 ++ lowHigh x.x1 ++ lowHigh x.x2 ++ lowHigh x.x3 ++ lowHigh x.x4

/-- The word file after rounds start … start+count−1 (44_ascon.md R220). -/
def asconRounds (start count : Nat) (w : Words) : Words :=
  overlay w (asconStore (roundsFrom asconRound start count (asconLoad w)))

/-- `ROUNDS.ASCON start, count` (44_ascon.md R220). -/
def execRoundsAscon (start count : Byte) (s : State) : Result :=
  runCommand (encode (.roundsAscon start count))
    [needPresent s .ascon, needRounds 12 start count, needLayout s .ascon]
    { s with w := asconRounds start.toNat count.toNat s.w } s

end Sys2Proof.Machine
end

