-- ==== Sys2Proof/Machine/Control.lean ====
section
/-! DEFINITION. `NOP`, `CLEAR` and the round-material scheduler `SCHED` (40_control.md). -/

namespace Sys2Proof.Machine

/-- `NOP`: no effect (40_control.md R110). -/
def execNop (s : State) : Result := runCommand (encode .nop) [] s s

/-- The effect of `CLEAR`: words, buffers, material and both tags are 0 (40_control.md R111). -/
def clearEffect (s : State) : State :=
  { s with
    w := tabulate 16 fun _ => 0#32
    mem := []
    mkey := tabulate 48 fun _ => 0#8
    lprim := 0#4
    lvalid := false
    mprim := 0#4
    mvalid := false }

/-- `CLEAR` (40_control.md R111). -/
def execClear (s : State) : Result := runCommand (encode .clear) [] (clearEffect s) s

/-- The common effect of `SCHED.p`: `MKEY` is a snapshot of `KEY`, and the material tag names p (40_control.md R112). -/
def schedule (p : Prim) (s : State) : State := { s with mkey := s.keySnapshot, mprim := p.code, mvalid := true }

/-- `SCHED.GIFT` (40_control.md R113). -/
def execSchedGift (s : State) : Result :=
  runCommand (encode .schedGift) [needPresent s .gift] (schedule .gift s) s

/-- `SCHED.SKINNY` (40_control.md R114). -/
def execSchedSkinny (s : State) : Result :=
  runCommand (encode .schedSkinny) [needPresent s .skinny] (schedule .skinny s) s

/-- `SCHED.JAMBU` (40_control.md R115). -/
def execSchedJambu (s : State) : Result :=
  runCommand (encode .schedJambu) [needPresent s .jambu] (schedule .jambu s) s

end Sys2Proof.Machine
end

