-- ==== Sys2Proof/Machine/Gift.lean ====
section
/-! DEFINITION. `ROUNDS.GIFT`: GIFT-128 in bitsliced form (42_gift.md). -/

namespace Sys2Proof.Machine

/-- The four segments S0 … S3 (42_gift.md R160, R162). -/
structure GiftState where
  s0 : Word
  s1 : Word
  s2 : Word
  s3 : Word
deriving DecidableEq, Repr

/-- The key words κ7 … κ0, 16 bits each (42_gift.md R164). -/
structure GiftKey where
  k7 : Half
  k6 : Half
  k5 : Half
  k4 : Half
  k3 : Half
  k2 : Half
  k1 : Half
  k0 : Half
deriving DecidableEq, Repr

/-- SubCells in bitsliced form, statement by statement (42_gift.md R162). -/
def giftSubCells (x : GiftState) : GiftState :=
  let s1 := x.s1 ^^^ (x.s0 &&& x.s2)
  let s0 := x.s0 ^^^ (s1 &&& x.s3)
  let s2 := x.s2 ^^^ (s0 ||| s1)
  let s3 := x.s3 ^^^ s2
  let s1 := s1 ^^^ s3
  let s3 := ~~~s3
  let s2 := s2 ^^^ (s0 &&& s1)
  { s0 := s3, s1 := s1, s2 := s2, s3 := s0 }

/-- The bit `Pj(i) = ⌊i/4⌋ + 8·((j − (i mod 4)) mod 4)` that bit i of Sj moves to (42_gift.md R163). -/
def giftBitTarget (j i : Nat) : Nat := i / 4 + 8 * ((j + 4 - i % 4) % 4)

/-- `OR over i of (Sj[i] << Pj(i))` (42_gift.md R163). -/
def giftPermSegment (j : Nat) (v : Word) : Word :=
  (List.range 32).foldl
    (fun acc i => acc ||| ((BitVec.ofBool (v.getLsbD i)).setWidth 32 <<< giftBitTarget j i)) 0#32

/-- PermBits, each segment within itself (42_gift.md R163). -/
def giftPermBits (x : GiftState) : GiftState where
  s0 := giftPermSegment 0 x.s0
  s1 := giftPermSegment 1 x.s1
  s2 := giftPermSegment 2 x.s2
  s3 := giftPermSegment 3 x.s3

/-- `κ_i = BE16(MKEY, 14 − 2i)` (42_gift.md R164). -/
def giftKeyOf (m : Material) : GiftKey where
  k7 := m[0] ++ m[1]
  k6 := m[2] ++ m[3]
  k5 := m[4] ++ m[5]
  k4 := m[6] ++ m[7]
  k3 := m[8] ++ m[9]
  k2 := m[10] ++ m[11]
  k1 := m[12] ++ m[13]
  k0 := m[14] ++ m[15]

/-- The key state of round r+1 from that of round r (42_gift.md R165). -/
def giftKeyUpdate (k : GiftKey) : GiftKey where
  k7 := k.k1.rotateRight 2
  k6 := k.k0.rotateRight 12
  k5 := k.k7
  k4 := k.k6
  k3 := k.k5
  k2 := k.k4
  k1 := k.k3
  k0 := k.k2

/-- The key state of round r (42_gift.md R165). -/
def giftKeyAt (k : GiftKey) : Nat → GiftKey
  | 0 => k
  | r + 1 => giftKeyUpdate (giftKeyAt k r)

/-- `U_r = κ5 ‖ κ4` of a round's key state (42_gift.md R165). -/
def GiftKey.u (k : GiftKey) : Word := k.k5 ++ k.k4

/-- `V_r = κ1 ‖ κ0` of a round's key state (42_gift.md R165). -/
def GiftKey.v (k : GiftKey) : Word := k.k1 ++ k.k0

/-- The round constant c_r (42_gift.md R167). -/
def giftConstant (r : Nat) : BitVec 6 := lfsr6 (r + 1)

/-- AddRoundKey of round r (42_gift.md R166). -/
def giftAddRoundKey (k : GiftKey) (r : Nat) (x : GiftState) : GiftState where
  s0 := x.s0
  s1 := x.s1 ^^^ (giftKeyAt k r).v
  s2 := x.s2 ^^^ (giftKeyAt k r).u
  s3 := x.s3 ^^^ 0x80000000#32 ^^^ (giftConstant r).setWidth 32

/-- Round r: SubCells, PermBits, AddRoundKey (42_gift.md R161). -/
def giftRound (k : GiftKey) (r : Nat) (x : GiftState) : GiftState := giftAddRoundKey k r (giftPermBits (giftSubCells x))

/-- S0 … S3 from the word file (42_gift.md R160). -/
def giftLoad (w : Words) : GiftState where
  s0 := w[0]
  s1 := w[1]
  s2 := w[2]
  s3 := w[3]

/-- S0 … S3 as words (42_gift.md R160). -/
def giftStore (x : GiftState) : List Word := [x.s0, x.s1, x.s2, x.s3]

/-- The word file after rounds start … start+count−1 under the material `m` (42_gift.md R160). -/
def giftRounds (m : Material) (start count : Nat) (w : Words) : Words :=
  overlay w (giftStore (roundsFrom (giftRound (giftKeyOf m)) start count (giftLoad w)))

/-- `ROUNDS.GIFT start, count` (42_gift.md R160). -/
def execRoundsGift (start count : Byte) (s : State) : Result :=
  runCommand (encode (.roundsGift start count))
    [needPresent s .gift, needRounds 40 start count, needLayout s .gift, needMaterial s .gift]
    { s with w := giftRounds s.mkey start.toNat count.toNat s.w } s

end Sys2Proof.Machine
end

