-- ==== Sys2Proof/Machine/Grain.lean ====
section
/-! DEFINITION. `ROUNDS.GRAIN`: the Grain-128AEAD pre-output generator (45_grain.md). -/

namespace Sys2Proof.Machine

/-- The NFSR bits b_0 … b_127 and the LFSR bits s_0 … s_127 (45_grain.md R240). -/
structure GrainState where
  b : BitVec 128
  s : BitVec 128
deriving DecidableEq, Repr

/-- f (45_grain.md R242). -/
def grainF (s : BitVec 128) : Bool :=
  s.getLsbD 0 ^^ s.getLsbD 7 ^^ s.getLsbD 38 ^^ s.getLsbD 70 ^^ s.getLsbD 81 ^^ s.getLsbD 96

/-- g (45_grain.md R242). -/
def grainG (b : BitVec 128) : Bool :=
  b.getLsbD 0 ^^ b.getLsbD 26 ^^ b.getLsbD 56 ^^ b.getLsbD 91 ^^ b.getLsbD 96 ^^
    (b.getLsbD 3 && b.getLsbD 67) ^^ (b.getLsbD 11 && b.getLsbD 13) ^^ (b.getLsbD 17 && b.getLsbD 18) ^^
    (b.getLsbD 27 && b.getLsbD 59) ^^ (b.getLsbD 40 && b.getLsbD 48) ^^ (b.getLsbD 61 && b.getLsbD 65) ^^
    (b.getLsbD 68 && b.getLsbD 84) ^^ (b.getLsbD 22 && b.getLsbD 24 && b.getLsbD 25) ^^
    (b.getLsbD 70 && b.getLsbD 78 && b.getLsbD 82) ^^
    (b.getLsbD 88 && b.getLsbD 92 && b.getLsbD 93 && b.getLsbD 95)

/-- h (45_grain.md R242). -/
def grainH (b s : BitVec 128) : Bool :=
  let x0 := b.getLsbD 12
  let x1 := s.getLsbD 8
  let x2 := s.getLsbD 13
  let x3 := s.getLsbD 20
  let x4 := b.getLsbD 95
  let x5 := s.getLsbD 42
  let x6 := s.getLsbD 60
  let x7 := s.getLsbD 79
  let x8 := s.getLsbD 94
  (x0 && x1) ^^ (x2 && x3) ^^ (x4 && x5) ^^ (x6 && x7) ^^ (x0 && x4 && x8)

/-- The pre-output y of a clock (45_grain.md R241). -/
def grainOutput (x : GrainState) : Bool :=
  grainH x.b x.s ^^ x.s.getLsbD 93 ^^ x.b.getLsbD 2 ^^ x.b.getLsbD 15 ^^ x.b.getLsbD 36 ^^ x.b.getLsbD 45 ^^
    x.b.getLsbD 64 ^^ x.b.getLsbD 73 ^^ x.b.getLsbD 89

/-- In initialisation mode the pre-output is fed back (45_grain.md R241, R243). -/
def grainFeedback (mode : GrainMode) (y : Bool) : Bool :=
  match mode with
  | .gen => false
  | .init => y

/-- The registers after one clock (45_grain.md R241). -/
def grainClock (mode : GrainMode) (x : GrainState) : GrainState where
  b := shiftIn x.b (x.s.getLsbD 0 ^^ grainG x.b ^^ grainFeedback mode (grainOutput x))
  s := shiftIn x.s (grainF x.s ^^ grainFeedback mode (grainOutput x))

/-- The registers after n clocks. -/
def grainClocks (mode : GrainMode) : Nat → GrainState → GrainState
  | 0, x => x
  | n + 1, x => grainClocks mode n (grainClock mode x)

/-- z of n clocks: bit t is the pre-output of clock t, the first generated lowest (45_grain.md R240, R244). -/
def grainBits (mode : GrainMode) : Nat → GrainState → Word
  | 0, _ => 0#32
  | n + 1, x => (grainBits mode n (grainClock mode x) <<< 1) ||| (BitVec.ofBool (grainOutput x)).setWidth 32

/-- Bits per output word (45_grain.md R240). -/
def grainWordBits : GrainWidth → Nat
  | .w32 => 32
  | .w16 => 16

/-- OutputWrite(k, z, n) (45_grain.md R244). -/
def grainOutputWrite (width : GrainWidth) (k : Nat) (z : Word) (w : Words) : Words :=
  match width with
  | .w32 => setWord w (8 + k) z
  | .w16 =>
    let old := (w[8 + k / 2]?).getD 0#32
    let new : Word :=
      if k % 2 = 0 then old.extractLsb' 16 16 ++ z.extractLsb' 0 16 else z.extractLsb' 0 16 ++ old.extractLsb' 0 16
    setWord w (8 + k / 2) new

/-- Output word k: n clocks, then the word's write (45_grain.md R240). -/
def grainWord (width : GrainWidth) (mode : GrainMode) (k : Nat) (x : GrainState × Words) : GrainState × Words :=
  (grainClocks mode (grainWordBits width) x.1,
    grainOutputWrite width k (grainBits mode (grainWordBits width) x.1) x.2)

/-- The registers from the word file (45_grain.md R240). -/
def grainLoad (w : Words) : GrainState where
  b := pack128 w[0] w[1] w[2] w[3]
  s := pack128 w[4] w[5] w[6] w[7]

/-- The registers as words (45_grain.md R240). -/
def grainStore (x : GrainState) : List Word := unpack128 x.b ++ unpack128 x.s

/-- The word file after `count` output words (45_grain.md R240). -/
def grainRounds (width : GrainWidth) (mode : GrainMode) (count : Nat) (w : Words) : Words :=
  let out := roundsFrom (grainWord width mode) 0 count (grainLoad w, w)
  overlay out.2 (grainStore out.1)

/-- The most output words a command may ask for (30_encoding.md R86). -/
def grainLimit : GrainWidth → Nat
  | .w32 => 8
  | .w16 => 16

/-- `ROUNDS.GRAIN count, width, mode` (45_grain.md R240). -/
def execRoundsGrain (count : Byte) (width : GrainWidth) (mode : GrainMode) (s : State) : Result :=
  runCommand (encode (.roundsGrain count width mode))
    [needPresent s .grain, (decide (count.toNat ≤ grainLimit width), .eRange), needLayout s .grain]
    { s with w := grainRounds width mode count.toNat s.w } s

end Sys2Proof.Machine
end

