-- ==== Sys2Proof/Machine/Jambu.lean ====
section
/-! DEFINITION. `ROUNDS.JAMBU`: the TinyJAMBU keyed permutation, 128-bit key (47_jambu.md). -/

namespace Sys2Proof.Machine

/-- The feedback bit of one step (47_jambu.md R281). -/
def jambuFeedback (r : BitVec 128) (k : Bool) : Bool :=
  r.getLsbD 0 ^^ r.getLsbD 47 ^^ !(r.getLsbD 70 && r.getLsbD 85) ^^ r.getLsbD 91 ^^ k

/-- One step (47_jambu.md R281). -/
def jambuStep (r : BitVec 128) (k : Bool) : BitVec 128 := shiftIn r (jambuFeedback r k)

/-- The key words `k_j = LE32(MKEY, 4j)` as one 128-bit key (47_jambu.md R282). -/
def jambuKeyOf (m : Material) : BitVec 128 :=
  pack128 (le32 m[0] m[1] m[2] m[3]) (le32 m[4] m[5] m[6] m[7]) (le32 m[8] m[9] m[10] m[11])
    (le32 m[12] m[13] m[14] m[15])

/-- Step t uses key bit t mod 128 (47_jambu.md R280, R282). -/
def jambuKeyedStep (key : BitVec 128) (t : Nat) (r : BitVec 128) : BitVec 128 := jambuStep r (key.getLsbD (t % 128))

/-- The state from the word file (47_jambu.md R280). -/
def jambuLoad (w : Words) : BitVec 128 := pack128 w[0] w[1] w[2] w[3]

/-- The word file after `count` blocks of 128 steps (47_jambu.md R280). -/
def jambuRounds (m : Material) (count : Nat) (w : Words) : Words :=
  overlay w (unpack128 (roundsFrom (jambuKeyedStep (jambuKeyOf m)) 0 (128 * count) (jambuLoad w)))

/-- `ROUNDS.JAMBU count` (47_jambu.md R280). -/
def execRoundsJambu (count : Byte) (s : State) : Result :=
  runCommand (encode (.roundsJambu count)) [needPresent s .jambu, needLayout s .jambu, needMaterial s .jambu]
    { s with w := jambuRounds s.mkey count.toNat s.w } s

end Sys2Proof.Machine
end

