-- ==== Sys2Proof/Machine/Layout.lean ====
section
/-! DEFINITION. The state-layout converter: `TOINT.p` and `TOEXT.p` for the eight primitives (41_layout.md). `IN_p` maps
the primitive's external bytes to its words, `OUT_p` maps them back. -/

namespace Sys2Proof.Machine

/-- The common effect of `TOINT.p`: `IN_p` of `DATA[0..4n-1]` in the first n words, 0 in the others, and the layout tag
(41_layout.md R131). -/
def toInternal (p : Prim) (inWords : List Byte → List Word) (s : State) : State :=
  { s with w := overlay (tabulate 16 fun _ => 0#32) (inWords (s.dataBytes (4 * primWords p))) }.tagLayout p

/-- The common effect of `TOEXT.p`: `OUT_p` of the first n words in `DATA[0..4n-1]` (41_layout.md R132). -/
def toExternal (p : Prim) (outBytes : List Word → List Byte) (s : State) : State :=
  { s with mem := s.mem.writeBytes dataBase (outBytes (firstWords (primWords p) s.w)) }

/-- `IN_GIFT`: big-endian words, `W[j]` the segment `Sj` (41_layout.md R134). -/
def inGift (bytes : List Byte) : List Word := be32Words bytes

/-- `OUT_GIFT`, the inverse of `IN_GIFT` (41_layout.md R135). -/
def outGift (words : List Word) : List Byte := be32Bytes words

/-- `TOINT.GIFT` (41_layout.md R131, R134). -/
def execTointGift (s : State) : Result :=
  runCommand (encode .tointGift) [needPresent s .gift] (toInternal .gift inGift s) s

/-- `TOEXT.GIFT` (41_layout.md R132, R135). -/
def execToextGift (s : State) : Result :=
  runCommand (encode .toextGift) [needPresent s .gift, needLayout s .gift] (toExternal .gift outGift s) s

/-- `IN_SKINNY`: little-endian words: row r of the cell array is word r (41_layout.md R136). -/
def inSkinny (bytes : List Byte) : List Word := le32Words bytes

/-- `OUT_SKINNY`, the inverse of `IN_SKINNY` (41_layout.md R137). -/
def outSkinny (words : List Word) : List Byte := le32Bytes words

/-- `TOINT.SKINNY` (41_layout.md R131, R136). -/
def execTointSkinny (s : State) : Result :=
  runCommand (encode .tointSkinny) [needPresent s .skinny] (toInternal .skinny inSkinny s) s

/-- `TOEXT.SKINNY` (41_layout.md R132, R137). -/
def execToextSkinny (s : State) : Result :=
  runCommand (encode .toextSkinny) [needPresent s .skinny, needLayout s .skinny] (toExternal .skinny outSkinny s) s

/-- `IN_ASCON`: big-endian doublewords, low word first (41_layout.md R138). -/
def inAscon (bytes : List Byte) : List Word := be64WordPairs bytes

/-- `OUT_ASCON`, the inverse of `IN_ASCON` (41_layout.md R139). -/
def outAscon (words : List Word) : List Byte := be64Bytes words

/-- `TOINT.ASCON` (41_layout.md R131, R138). -/
def execTointAscon (s : State) : Result :=
  runCommand (encode .tointAscon) [needPresent s .ascon] (toInternal .ascon inAscon s) s

/-- `TOEXT.ASCON` (41_layout.md R132, R139). -/
def execToextAscon (s : State) : Result :=
  runCommand (encode .toextAscon) [needPresent s .ascon, needLayout s .ascon] (toExternal .ascon outAscon s) s

/-- `IN_GRAIN`: little-endian words: NFSR, LFSR, output area (41_layout.md R140). -/
def inGrain (bytes : List Byte) : List Word := le32Words bytes

/-- `OUT_GRAIN`, the inverse of `IN_GRAIN` (41_layout.md R141). -/
def outGrain (words : List Word) : List Byte := le32Bytes words

/-- `TOINT.GRAIN` (41_layout.md R131, R140). -/
def execTointGrain (s : State) : Result :=
  runCommand (encode .tointGrain) [needPresent s .grain] (toInternal .grain inGrain s) s

/-- `TOEXT.GRAIN` (41_layout.md R132, R141). -/
def execToextGrain (s : State) : Result :=
  runCommand (encode .toextGrain) [needPresent s .grain, needLayout s .grain] (toExternal .grain outGrain s) s

/-- `IN_SPARKLE`: little-endian words: x0, y0, x1, y1, … (41_layout.md R142). -/
def inSparkle (bytes : List Byte) : List Word := le32Words bytes

/-- `OUT_SPARKLE`, the inverse of `IN_SPARKLE` (41_layout.md R143). -/
def outSparkle (words : List Word) : List Byte := le32Bytes words

/-- `TOINT.SPARKLE` (41_layout.md R131, R142). -/
def execTointSparkle (s : State) : Result :=
  runCommand (encode .tointSparkle) [needPresent s .sparkle] (toInternal .sparkle inSparkle s) s

/-- `TOEXT.SPARKLE` (41_layout.md R132, R143). -/
def execToextSparkle (s : State) : Result :=
  runCommand (encode .toextSparkle) [needPresent s .sparkle, needLayout s .sparkle] (toExternal .sparkle outSparkle s) s

/-- `IN_JAMBU`: little-endian words, state bit 0 lowest (41_layout.md R144). -/
def inJambu (bytes : List Byte) : List Word := le32Words bytes

/-- `OUT_JAMBU`, the inverse of `IN_JAMBU` (41_layout.md R145). -/
def outJambu (words : List Word) : List Byte := le32Bytes words

/-- `TOINT.JAMBU` (41_layout.md R131, R144). -/
def execTointJambu (s : State) : Result :=
  runCommand (encode .tointJambu) [needPresent s .jambu] (toInternal .jambu inJambu s) s

/-- `TOEXT.JAMBU` (41_layout.md R132, R145). -/
def execToextJambu (s : State) : Result :=
  runCommand (encode .toextJambu) [needPresent s .jambu, needLayout s .jambu] (toExternal .jambu outJambu s) s

/-- `IN_PHOTON`: little-endian words: row r of the cells is word r (41_layout.md R146). -/
def inPhoton (bytes : List Byte) : List Word := le32Words bytes

/-- `OUT_PHOTON`, the inverse of `IN_PHOTON` (41_layout.md R147). -/
def outPhoton (words : List Word) : List Byte := le32Bytes words

/-- `TOINT.PHOTON` (41_layout.md R131, R146). -/
def execTointPhoton (s : State) : Result :=
  runCommand (encode .tointPhoton) [needPresent s .photon] (toInternal .photon inPhoton s) s

/-- `TOEXT.PHOTON` (41_layout.md R132, R147). -/
def execToextPhoton (s : State) : Result :=
  runCommand (encode .toextPhoton) [needPresent s .photon, needLayout s .photon] (toExternal .photon outPhoton s) s

/-- `IN_XOODOO`: little-endian words: lane A[y][x] is word 4y + x (41_layout.md R148). -/
def inXoodoo (bytes : List Byte) : List Word := le32Words bytes

/-- `OUT_XOODOO`, the inverse of `IN_XOODOO` (41_layout.md R149). -/
def outXoodoo (words : List Word) : List Byte := le32Bytes words

/-- `TOINT.XOODOO` (41_layout.md R131, R148). -/
def execTointXoodoo (s : State) : Result :=
  runCommand (encode .tointXoodoo) [needPresent s .xoodoo] (toInternal .xoodoo inXoodoo s) s

/-- `TOEXT.XOODOO` (41_layout.md R132, R149). -/
def execToextXoodoo (s : State) : Result :=
  runCommand (encode .toextXoodoo) [needPresent s .xoodoo, needLayout s .xoodoo] (toExternal .xoodoo outXoodoo s) s

end Sys2Proof.Machine
end

