-- ==== Sys2Proof/Machine/Photon.lean ====
section
/-! DEFINITION. `ROUNDS.PHOTON`: the PHOTON-256 permutation (48_photon.md). -/

namespace Sys2Proof.Machine

/-- The 8 x 8 cells; cell (r, c) is entry 8r + c (48_photon.md R300; 41_layout.md R146). -/
abbrev PhotonCells := Vector Nibble 64

/-- X[r][c]; r and c are taken below 8. -/
def photonCell (x : PhotonCells) (r c : Nat) : Nibble := (x[8 * r + c]?).getD 0#4

/-- RC[t] (48_photon.md R302). -/
def photonRoundConstant (t : Nat) : Nibble :=
  [1#4, 3#4, 7#4, 14#4, 13#4, 11#4, 6#4, 12#4, 9#4, 2#4, 5#4, 10#4].getD t 0#4

/-- IC[i] (48_photon.md R302). -/
def photonRowConstant (i : Nat) : Nibble := [0#4, 1#4, 3#4, 7#4, 15#4, 14#4, 12#4, 8#4].getD i 0#4

/-- AddConstant of round t: column 0 only (48_photon.md R302). -/
def photonAddConstant (t : Nat) (x : PhotonCells) : PhotonCells :=
  tabulate 64 fun n =>
    if n.val % 8 = 0 then x[n] ^^^ photonRoundConstant t ^^^ photonRowConstant (n.val / 8) else x[n]

/-- S4, the PRESENT S-box (48_photon.md R303). -/
def photonSbox (v : Nibble) : Nibble :=
  [0xC#4, 0x5#4, 0x6#4, 0xB#4, 0x9#4, 0x0#4, 0xA#4, 0xD#4,
    0x3#4, 0xE#4, 0xF#4, 0x8#4, 0x4#4, 0x7#4, 0x1#4, 0x2#4].getD v.toNat 0#4

/-- SubCells (48_photon.md R303). -/
def photonSubCells (x : PhotonCells) : PhotonCells := tabulate 64 fun n => photonSbox x[n]

/-- ShiftRows: `X'[i][j] = X[i][(j + i) mod 8]` (48_photon.md R304). -/
def photonShiftRows (x : PhotonCells) : PhotonCells :=
  tabulate 64 fun n => photonCell x (n.val / 8) ((n.val % 8 + n.val / 8) % 8)

/-- Multiplication by x in GF(2)[x]/(x^4 + x + 1) (48_photon.md R305). -/
def gfDouble (a : Nibble) : Nibble := (a <<< 1) ^^^ (if a.getLsbD 3 then 0x3#4 else 0#4)

/-- a ⊗ b in GF(2^4) modulo 0x13 (48_photon.md R305). -/
def gfMul (a b : Nibble) : Nibble :=
  (if b.getLsbD 0 then a else 0#4) ^^^ (if b.getLsbD 1 then gfDouble a else 0#4) ^^^
    (if b.getLsbD 2 then gfDouble (gfDouble a) else 0#4) ^^^
    (if b.getLsbD 3 then gfDouble (gfDouble (gfDouble a)) else 0#4)

/-- The matrix M, row by row (48_photon.md R305). -/
def photonMatrix : List (List Nibble) :=
  [[2#4, 4#4, 2#4, 11#4, 2#4, 8#4, 5#4, 6#4],
    [12#4, 9#4, 8#4, 13#4, 7#4, 7#4, 5#4, 2#4],
    [4#4, 4#4, 13#4, 13#4, 9#4, 4#4, 13#4, 9#4],
    [1#4, 6#4, 5#4, 1#4, 12#4, 13#4, 15#4, 14#4],
    [15#4, 12#4, 9#4, 13#4, 14#4, 5#4, 14#4, 13#4],
    [9#4, 14#4, 5#4, 15#4, 4#4, 12#4, 9#4, 6#4],
    [12#4, 2#4, 2#4, 10#4, 3#4, 1#4, 1#4, 14#4],
    [15#4, 1#4, 13#4, 10#4, 5#4, 10#4, 2#4, 3#4]]

/-- M[i][k] (48_photon.md R305). -/
def photonM (i k : Nat) : Nibble := (photonMatrix.getD i []).getD k 0#4

/-- MixColumnSerial: `X'[i][j] = ⊕_k M[i][k] ⊗ X[k][j]` (48_photon.md R305). -/
def photonMixColumns (x : PhotonCells) : PhotonCells :=
  tabulate 64 fun n =>
    (List.range 8).foldl (fun acc k => acc ^^^ gfMul (photonM (n.val / 8) k) (photonCell x k (n.val % 8))) 0#4

/-- Round t: AddConstant, SubCells, ShiftRows, MixColumnSerial (48_photon.md R301). -/
def photonRound (t : Nat) (x : PhotonCells) : PhotonCells :=
  photonMixColumns (photonShiftRows (photonSubCells (photonAddConstant t x)))

/-- `X[r][c] = W[r][4c+3 : 4c]` (48_photon.md R300). -/
def photonLoad (w : Words) : PhotonCells :=
  tabulate 64 fun n => (w[n.val / 8]'(by omega)).extractLsb' (4 * (n.val % 8)) 4

/-- Row r of the cells as a word (48_photon.md R300). -/
def photonRowWord (x : PhotonCells) (r : Nat) : Word :=
  photonCell x r 7 ++ photonCell x r 6 ++ photonCell x r 5 ++ photonCell x r 4 ++ photonCell x r 3 ++
    photonCell x r 2 ++ photonCell x r 1 ++ photonCell x r 0

/-- The cells as words (48_photon.md R300). -/
def photonStore (x : PhotonCells) : List Word := (List.range 8).map (photonRowWord x)

/-- The word file after rounds start … start+count−1 (48_photon.md R300). -/
def photonRounds (start count : Nat) (w : Words) : Words :=
  overlay w (photonStore (roundsFrom photonRound start count (photonLoad w)))

/-- `ROUNDS.PHOTON start, count` (48_photon.md R300). -/
def execRoundsPhoton (start count : Byte) (s : State) : Result :=
  runCommand (encode (.roundsPhoton start count))
    [needPresent s .photon, needRounds 12 start count, needLayout s .photon]
    { s with w := photonRounds start.toNat count.toNat s.w } s

end Sys2Proof.Machine
end

