-- ==== Sys2Proof/Machine/Skinny.lean ====
section
/-! DEFINITION. `ROUNDS.SKINNY`: SKINNY-128-384+ (43_skinny.md). -/

namespace Sys2Proof.Machine

/-- Sixteen cells: the state IS, or one part of the tweakey (43_skinny.md R191, R192). -/
abbrev SkinnyCells := Vector Byte 16

/-- TK1, TK2 and TK3 (43_skinny.md R192). -/
structure SkinnyTweakey where
  t1 : SkinnyCells
  t2 : SkinnyCells
  t3 : SkinnyCells
deriving DecidableEq, Repr

/-! The rows of the table of SB8 (43_skinny.md R193), by the high nibble of the input. -/

def skinnySboxRow0 : List Byte :=
  [0x65#8, 0x4C#8, 0x6A#8, 0x42#8, 0x4B#8, 0x63#8, 0x43#8, 0x6B#8, 0x55#8, 0x75#8, 0x5A#8, 0x7A#8, 0x53#8, 0x73#8, 0x5B#8, 0x7B#8]
def skinnySboxRow1 : List Byte :=
  [0x35#8, 0x8C#8, 0x3A#8, 0x81#8, 0x89#8, 0x33#8, 0x80#8, 0x3B#8, 0x95#8, 0x25#8, 0x98#8, 0x2A#8, 0x90#8, 0x23#8, 0x99#8, 0x2B#8]
def skinnySboxRow2 : List Byte :=
  [0xE5#8, 0xCC#8, 0xE8#8, 0xC1#8, 0xC9#8, 0xE0#8, 0xC0#8, 0xE9#8, 0xD5#8, 0xF5#8, 0xD8#8, 0xF8#8, 0xD0#8, 0xF0#8, 0xD9#8, 0xF9#8]
def skinnySboxRow3 : List Byte :=
  [0xA5#8, 0x1C#8, 0xA8#8, 0x12#8, 0x1B#8, 0xA0#8, 0x13#8, 0xA9#8, 0x05#8, 0xB5#8, 0x0A#8, 0xB8#8, 0x03#8, 0xB0#8, 0x0B#8, 0xB9#8]
def skinnySboxRow4 : List Byte :=
  [0x32#8, 0x88#8, 0x3C#8, 0x85#8, 0x8D#8, 0x34#8, 0x84#8, 0x3D#8, 0x91#8, 0x22#8, 0x9C#8, 0x2C#8, 0x94#8, 0x24#8, 0x9D#8, 0x2D#8]
def skinnySboxRow5 : List Byte :=
  [0x62#8, 0x4A#8, 0x6C#8, 0x45#8, 0x4D#8, 0x64#8, 0x44#8, 0x6D#8, 0x52#8, 0x72#8, 0x5C#8, 0x7C#8, 0x54#8, 0x74#8, 0x5D#8, 0x7D#8]
def skinnySboxRow6 : List Byte :=
  [0xA1#8, 0x1A#8, 0xAC#8, 0x15#8, 0x1D#8, 0xA4#8, 0x14#8, 0xAD#8, 0x02#8, 0xB1#8, 0x0C#8, 0xBC#8, 0x04#8, 0xB4#8, 0x0D#8, 0xBD#8]
def skinnySboxRow7 : List Byte :=
  [0xE1#8, 0xC8#8, 0xEC#8, 0xC5#8, 0xCD#8, 0xE4#8, 0xC4#8, 0xED#8, 0xD1#8, 0xF1#8, 0xDC#8, 0xFC#8, 0xD4#8, 0xF4#8, 0xDD#8, 0xFD#8]
def skinnySboxRow8 : List Byte :=
  [0x36#8, 0x8E#8, 0x38#8, 0x82#8, 0x8B#8, 0x30#8, 0x83#8, 0x39#8, 0x96#8, 0x26#8, 0x9A#8, 0x28#8, 0x93#8, 0x20#8, 0x9B#8, 0x29#8]
def skinnySboxRow9 : List Byte :=
  [0x66#8, 0x4E#8, 0x68#8, 0x41#8, 0x49#8, 0x60#8, 0x40#8, 0x69#8, 0x56#8, 0x76#8, 0x58#8, 0x78#8, 0x50#8, 0x70#8, 0x59#8, 0x79#8]
def skinnySboxRowA : List Byte :=
  [0xA6#8, 0x1E#8, 0xAA#8, 0x11#8, 0x19#8, 0xA3#8, 0x10#8, 0xAB#8, 0x06#8, 0xB6#8, 0x08#8, 0xBA#8, 0x00#8, 0xB3#8, 0x09#8, 0xBB#8]
def skinnySboxRowB : List Byte :=
  [0xE6#8, 0xCE#8, 0xEA#8, 0xC2#8, 0xCB#8, 0xE3#8, 0xC3#8, 0xEB#8, 0xD6#8, 0xF6#8, 0xDA#8, 0xFA#8, 0xD3#8, 0xF3#8, 0xDB#8, 0xFB#8]
def skinnySboxRowC : List Byte :=
  [0x31#8, 0x8A#8, 0x3E#8, 0x86#8, 0x8F#8, 0x37#8, 0x87#8, 0x3F#8, 0x92#8, 0x21#8, 0x9E#8, 0x2E#8, 0x97#8, 0x27#8, 0x9F#8, 0x2F#8]
def skinnySboxRowD : List Byte :=
  [0x61#8, 0x48#8, 0x6E#8, 0x46#8, 0x4F#8, 0x67#8, 0x47#8, 0x6F#8, 0x51#8, 0x71#8, 0x5E#8, 0x7E#8, 0x57#8, 0x77#8, 0x5F#8, 0x7F#8]
def skinnySboxRowE : List Byte :=
  [0xA2#8, 0x18#8, 0xAE#8, 0x16#8, 0x1F#8, 0xA7#8, 0x17#8, 0xAF#8, 0x01#8, 0xB2#8, 0x0E#8, 0xBE#8, 0x07#8, 0xB7#8, 0x0F#8, 0xBF#8]
def skinnySboxRowF : List Byte :=
  [0xE2#8, 0xCA#8, 0xEE#8, 0xC6#8, 0xCF#8, 0xE7#8, 0xC7#8, 0xEF#8, 0xD2#8, 0xF2#8, 0xDE#8, 0xFE#8, 0xD7#8, 0xF7#8, 0xDF#8, 0xFF#8]

/-- The table of SB8 (43_skinny.md R193). -/
def skinnySboxTable : List Byte :=
  (skinnySboxRow0 ++ skinnySboxRow1 ++ skinnySboxRow2 ++ skinnySboxRow3 ++ skinnySboxRow4 ++ skinnySboxRow5 ++ skinnySboxRow6 ++ skinnySboxRow7 ++
    skinnySboxRow8 ++ skinnySboxRow9 ++ skinnySboxRowA ++ skinnySboxRowB ++ skinnySboxRowC ++ skinnySboxRowD ++ skinnySboxRowE ++ skinnySboxRowF)

/-- SB8 (43_skinny.md R193). -/
def skinnySbox (x : Byte) : Byte := skinnySboxTable.getD x.toNat 0#8

/-- SubCells (43_skinny.md R193). -/
def skinnySubCells (cells : SkinnyCells) : SkinnyCells := tabulate 16 fun i => skinnySbox cells[i]

/-- The round constant rc_r, the sequence of GIFT's (43_skinny.md R194). -/
def skinnyConstant (r : Nat) : BitVec 6 := lfsr6 (r + 1)

/-- AddConstants of round r (43_skinny.md R194). -/
def skinnyAddConstants (r : Nat) (cells : SkinnyCells) : SkinnyCells :=
  tabulate 16 fun i =>
    if i.val = 0 then cells[i] ^^^ ((skinnyConstant r).extractLsb' 0 4).setWidth 8
    else if i.val = 4 then cells[i] ^^^ ((skinnyConstant r).extractLsb' 4 2).setWidth 8
    else if i.val = 8 then cells[i] ^^^ 0x02#8
    else cells[i]

/-- AddRoundTweakey, on the first two rows (43_skinny.md R195). -/
def skinnyAddTweakey (tk : SkinnyTweakey) (cells : SkinnyCells) : SkinnyCells :=
  tabulate 16 fun i => if i.val < 8 then cells[i] ^^^ tk.t1[i] ^^^ tk.t2[i] ^^^ tk.t3[i] else cells[i]

/-- SR (43_skinny.md R196). -/
def skinnyShiftTable : List Nat := [0, 1, 2, 3, 7, 4, 5, 6, 10, 11, 8, 9, 13, 14, 15, 12]

/-- PT (43_skinny.md R198). -/
def skinnyTweakeyTable : List Nat := [9, 15, 8, 13, 10, 14, 12, 11, 0, 1, 2, 3, 4, 5, 6, 7]

/-- The cells taken in the order of a table: new cell i is old cell `table[i]`. -/
def skinnyPermute (table : List Nat) (cells : SkinnyCells) : SkinnyCells :=
  tabulate 16 fun i => (cells[table.getD i.val 0]?).getD 0#8

/-- ShiftRows (43_skinny.md R196). -/
def skinnyShiftRows (cells : SkinnyCells) : SkinnyCells := skinnyPermute skinnyShiftTable cells

/-- MixColumns; column i mod 4 is (a0, a1, a2, a3) (43_skinny.md R197). -/
def skinnyMixColumns (cells : SkinnyCells) : SkinnyCells :=
  tabulate 16 fun i =>
    let col : Nat := i.val % 4
    let a0 := cells[col]'(by omega)
    let a1 := cells[4 + col]'(by omega)
    let a2 := cells[8 + col]'(by omega)
    let a3 := cells[12 + col]'(by omega)
    if i.val < 4 then a0 ^^^ a2 ^^^ a3
    else if i.val < 8 then a0
    else if i.val < 12 then a1 ^^^ a2
    else a0 ^^^ a2

/-- LFSR2, on cells of TK2 (43_skinny.md R198). -/
def skinnyLfsr2 (x : Byte) : Byte := ((x <<< 1) &&& 0xFE#8) ||| (BitVec.ofBool (x.getLsbD 7 ^^ x.getLsbD 5)).setWidth 8

/-- LFSR3, on cells of TK3 (43_skinny.md R198). -/
def skinnyLfsr3 (x : Byte) : Byte := (x >>> 1) ||| ((BitVec.ofBool (x.getLsbD 0 ^^ x.getLsbD 6)).setWidth 8 <<< 7)

/-- A function on the first two rows. -/
def skinnyOnTopRows (f : Byte → Byte) (cells : SkinnyCells) : SkinnyCells :=
  tabulate 16 fun i => if i.val < 8 then f cells[i] else cells[i]

/-- TKupdate (43_skinny.md R198). -/
def skinnyTweakeyUpdate (tk : SkinnyTweakey) : SkinnyTweakey where
  t1 := skinnyPermute skinnyTweakeyTable tk.t1
  t2 := skinnyOnTopRows skinnyLfsr2 (skinnyPermute skinnyTweakeyTable tk.t2)
  t3 := skinnyOnTopRows skinnyLfsr3 (skinnyPermute skinnyTweakeyTable tk.t3)

/-- TK_at: the tweakey of round r (43_skinny.md R198). -/
def skinnyTweakeyAt (tk : SkinnyTweakey) : Nat → SkinnyTweakey
  | 0 => tk
  | r + 1 => skinnyTweakeyUpdate (skinnyTweakeyAt tk r)

/-- One round's transformation of the cells: SubCells, AddConstants, AddRoundTweakey, ShiftRows, MixColumns
(43_skinny.md R191). -/
def skinnyRound (tk : SkinnyTweakey) (r : Nat) (cells : SkinnyCells) : SkinnyCells :=
  skinnyMixColumns (skinnyShiftRows (skinnyAddTweakey tk (skinnyAddConstants r (skinnySubCells cells))))

/-- One pass of the loop: the round, then the tweakey's update (43_skinny.md R190). -/
def skinnyPass (r : Nat) (x : SkinnyCells × SkinnyTweakey) : SkinnyCells × SkinnyTweakey :=
  (skinnyRound x.2 r x.1, skinnyTweakeyUpdate x.2)

/-- IS from the word file: cell i is byte i mod 4 of word i / 4 (43_skinny.md R190). -/
def skinnyLoad (w : Words) : SkinnyCells := tabulate 16 fun i => byteOf (w[i.val / 4]'(by omega)) (i.val % 4)

/-- IS as words (43_skinny.md R190). -/
def skinnyStore (cells : SkinnyCells) : List Word := le32Words cells.toList

/-- TK1 = `KEY[0..15]`, live; TK2 and TK3 from the material (43_skinny.md R192). -/
def skinnyTweakeyOf (key : Nat → Byte) (m : Material) : SkinnyTweakey where
  t1 := tabulate 16 fun i => key i.val
  t2 := tabulate 16 fun i => m[16 + i.val]
  t3 := tabulate 16 fun i => m[32 + i.val]

/-- The word file after rounds start … start+count−1 under the tweakey `tk` (43_skinny.md R190). -/
def skinnyRounds (tk : SkinnyTweakey) (start count : Nat) (w : Words) : Words :=
  overlay w (skinnyStore (roundsFrom skinnyPass start count (skinnyLoad w, skinnyTweakeyAt tk start)).1)

/-- `ROUNDS.SKINNY start, count` (43_skinny.md R190). -/
def execRoundsSkinny (start count : Byte) (s : State) : Result :=
  runCommand (encode (.roundsSkinny start count))
    [needPresent s .skinny, needRounds 40 start count, needLayout s .skinny, needMaterial s .skinny]
    { s with w := skinnyRounds (skinnyTweakeyOf s.key s.mkey) start.toNat count.toNat s.w } s

end Sys2Proof.Machine
end

