-- ==== Sys2Proof/Machine/Sparkle.lean ====
section
/-! DEFINITION. `ROUNDS.SPARKLE`: the SPARKLE permutation with 4, 6 or 8 branches (46_sparkle.md). -/

namespace Sys2Proof.Machine

/-- The branches (x_i, y_i), i = 0..7; a command with B branches changes the first B (46_sparkle.md R260). -/
abbrev SparkleState := Vector (Word × Word) 8

/-- RC[i]; i is taken below 8 (46_sparkle.md R262). -/
def sparkleConstant (i : Nat) : Word :=
  [0xB7E15162#32, 0xBF715880#32, 0x38B4DA56#32, 0x324E7738#32,
    0xBB1185EB#32, 0x4F7C7B57#32, 0xCFBFA1C8#32, 0xC2B3293D#32].getD i 0#32

/-- One ARX micro-step: an addition, an exclusive or of a rotation, the constant (46_sparkle.md R263). -/
def alzetteStep (c : Word) (a b : Nat) (v : Word × Word) : Word × Word :=
  let x := v.1 + v.2.rotateRight a
  let y := v.2 ^^^ x.rotateRight b
  (x ^^^ c, y)

/-- Alzette(x, y, c); the third micro-step rotates y by 0 (46_sparkle.md R263). -/
def alzette (c : Word) (v : Word × Word) : Word × Word :=
  alzetteStep c 24 16 (alzetteStep c 0 31 (alzetteStep c 17 17 (alzetteStep c 31 24 v)))

/-- ELL, with a logical shift inside (46_sparkle.md R264; 90_conflicts.md C3). -/
def sparkleEll (v : Word) : Word := (v ^^^ (v <<< 16)).rotateRight 16

/-- The exclusive or of `f 0 … f (n-1)`. -/
def xorBelow (n : Nat) (f : Nat → Word) : Word := (List.range n).foldl (fun acc i => acc ^^^ f i) 0#32

/-- x_i; i is taken below 8. -/
def sparkleX (v : SparkleState) (i : Nat) : Word := ((v[i]?).getD (0#32, 0#32)).1

/-- y_i; i is taken below 8. -/
def sparkleY (v : SparkleState) (i : Nat) : Word := ((v[i]?).getD (0#32, 0#32)).2

/-- The constant injection of step s (46_sparkle.md R261). -/
def sparkleAddConstants (s : Nat) (v : SparkleState) : SparkleState :=
  tabulate 8 fun i =>
    if i.val = 0 then (v[i].1, v[i].2 ^^^ sparkleConstant (s % 8))
    else if i.val = 1 then (v[i].1, v[i].2 ^^^ BitVec.ofNat 32 s)
    else v[i]

/-- The ARX-box layer on the first B branches (46_sparkle.md R261). -/
def sparkleBoxes (B : Nat) (v : SparkleState) : SparkleState :=
  tabulate 8 fun i => if i.val < B then alzette (sparkleConstant i.val) v[i] else v[i]

/-- Linear: new left branch i comes from old branch (i+1) mod h, new right branch i+h is old branch i
(46_sparkle.md R265). -/
def sparkleLinear (B : Nat) (v : SparkleState) : SparkleState :=
  let h := B / 2
  let tx := sparkleEll (xorBelow h (sparkleX v))
  let ty := sparkleEll (xorBelow h (sparkleY v))
  tabulate 8 fun i =>
    if i.val < h then
      let j := (i.val + 1) % h
      (sparkleX v (j + h) ^^^ sparkleX v j ^^^ ty, sparkleY v (j + h) ^^^ sparkleY v j ^^^ tx)
    else if i.val < B then (sparkleX v (i.val - h), sparkleY v (i.val - h))
    else v[i]

/-- Step s (46_sparkle.md R261). -/
def sparkleStep (B s : Nat) (v : SparkleState) : SparkleState := sparkleLinear B (sparkleBoxes B (sparkleAddConstants s v))

/-- x_i = W[2i], y_i = W[2i+1] (46_sparkle.md R260). -/
def sparkleLoad (w : Words) : SparkleState := tabulate 8 fun i => (w[2 * i.val], w[2 * i.val + 1])

/-- The branches as words (46_sparkle.md R260). -/
def sparkleStore (v : SparkleState) : List Word := v.toList.flatMap fun b => [b.1, b.2]

/-- The word file after steps start … start+count−1 on B branches (46_sparkle.md R260). -/
def sparkleRounds (B start count : Nat) (w : Words) : Words :=
  overlay w ((sparkleStore (roundsFrom (sparkleStep B) start count (sparkleLoad w))).take (2 * B))

/-- `ROUNDS.SPARKLE start, count, B` (46_sparkle.md R260). -/
def execRoundsSparkle (start count : Byte) (branches : Branches) (s : State) : Result :=
  runCommand (encode (.roundsSparkle start count branches)) [needPresent s .sparkle, needLayout s .sparkle]
    { s with w := sparkleRounds branches.number start.toNat count.toNat s.w } s

end Sys2Proof.Machine
end

