-- ==== Sys2Proof/Machine/Xoodoo.lean ====
section
/-! DEFINITION. `ROUNDS.XOODOO`: the Xoodoo permutation (49_xoodoo.md). -/

namespace Sys2Proof.Machine

/-- The twelve lanes; lane A[y][x] is entry 4y + x (49_xoodoo.md R320). -/
abbrev XoodooState := Vector Word 12

/-- A[y][x], plane index mod 3, lane index mod 4 (49_xoodoo.md, introduction). -/
def lane (a : XoodooState) (y x : Nat) : Word := a[4 * (y % 3) + x % 4]

/-- The state whose lane A[y][x] is `f y x`. -/
def planes (f : Nat → Nat → Word) : XoodooState := tabulate 12 fun i => f (i.val / 4) (i.val % 4)

/-- `A[y] <<< (t, v)`, one lane: lane x is lane (x − t) mod 4 rotated left by v (49_xoodoo.md, introduction). -/
def shiftedLane (a : XoodooState) (t v y x : Nat) : Word := (lane a y (x + 4 - t)).rotateLeft v

/-- P[x], the column parity (49_xoodoo.md R322). -/
def xoodooParity (a : XoodooState) (x : Nat) : Word := lane a 0 x ^^^ lane a 1 x ^^^ lane a 2 x

/-- E[x] (49_xoodoo.md R322). -/
def xoodooEffect (a : XoodooState) (x : Nat) : Word :=
  (xoodooParity a (x + 3)).rotateLeft 5 ^^^ (xoodooParity a (x + 3)).rotateLeft 14

/-- θ (49_xoodoo.md R322). -/
def xoodooTheta (a : XoodooState) : XoodooState := planes fun y x => lane a y x ^^^ xoodooEffect a x

/-- ρ_west (49_xoodoo.md R323). -/
def xoodooRhoWest (a : XoodooState) : XoodooState :=
  planes fun y x => if y = 1 then shiftedLane a 1 0 1 x else if y = 2 then shiftedLane a 0 11 2 x else lane a y x

/-- C[r] (49_xoodoo.md R324). -/
def xoodooConstant (r : Nat) : Word :=
  [0x058#32, 0x038#32, 0x3C0#32, 0x0D0#32, 0x120#32, 0x014#32,
    0x060#32, 0x02C#32, 0x380#32, 0x0F0#32, 0x1A0#32, 0x012#32].getD r 0#32

/-- ι of round r: lane 0 of plane 0 only (49_xoodoo.md R324). -/
def xoodooIota (r : Nat) (a : XoodooState) : XoodooState :=
  planes fun y x => if y = 0 ∧ x = 0 then lane a 0 0 ^^^ xoodooConstant r else lane a y x

/-- χ (49_xoodoo.md R325). -/
def xoodooChi (a : XoodooState) : XoodooState :=
  planes fun y x => lane a y x ^^^ (~~~lane a (y + 1) x &&& lane a (y + 2) x)

/-- ρ_east (49_xoodoo.md R326). -/
def xoodooRhoEast (a : XoodooState) : XoodooState :=
  planes fun y x => if y = 1 then shiftedLane a 0 1 1 x else if y = 2 then shiftedLane a 2 8 2 x else lane a y x

/-- Round r: θ, ρ_west, ι, χ, ρ_east (49_xoodoo.md R321). -/
def xoodooRound (r : Nat) (a : XoodooState) : XoodooState :=
  xoodooRhoEast (xoodooChi (xoodooIota r (xoodooRhoWest (xoodooTheta a))))

/-- `A[y][x] = W[4y + x]` (49_xoodoo.md R320). -/
def xoodooLoad (w : Words) : XoodooState := tabulate 12 fun i => w[i.val]

/-- The word file after rounds start … start+count−1 (49_xoodoo.md R320). -/
def xoodooRounds (start count : Nat) (w : Words) : Words :=
  overlay w (roundsFrom xoodooRound start count (xoodooLoad w)).toList

/-- `ROUNDS.XOODOO start, count` (49_xoodoo.md R320). -/
def execRoundsXoodoo (start count : Byte) (s : State) : Result :=
  runCommand (encode (.roundsXoodoo start count))
    [needPresent s .xoodoo, needRounds 12 start count, needLayout s .xoodoo]
    { s with w := xoodooRounds start.toNat count.toNat s.w } s

end Sys2Proof.Machine
end

