-- ==== Sys2Proof/Machine/Dispatch.lean ====
section
/-! DEFINITION. The meaning of a command: its checks, its pseudocode and its completion (60_exceptions.md R351). One arm per
row of the opcode table. -/

namespace Sys2Proof.Machine

def exec (i : Instr) (s : State) : Host.Outcome State Fault Refusal :=
  match i with
  | .nop => Sys2Proof.Machine.execNop s
  | .clear => Sys2Proof.Machine.execClear s
  | .tointGift => Sys2Proof.Machine.execTointGift s
  | .tointSkinny => Sys2Proof.Machine.execTointSkinny s
  | .tointAscon => Sys2Proof.Machine.execTointAscon s
  | .tointGrain => Sys2Proof.Machine.execTointGrain s
  | .tointSparkle => Sys2Proof.Machine.execTointSparkle s
  | .tointJambu => Sys2Proof.Machine.execTointJambu s
  | .tointPhoton => Sys2Proof.Machine.execTointPhoton s
  | .tointXoodoo => Sys2Proof.Machine.execTointXoodoo s
  | .toextGift => Sys2Proof.Machine.execToextGift s
  | .toextSkinny => Sys2Proof.Machine.execToextSkinny s
  | .toextAscon => Sys2Proof.Machine.execToextAscon s
  | .toextGrain => Sys2Proof.Machine.execToextGrain s
  | .toextSparkle => Sys2Proof.Machine.execToextSparkle s
  | .toextJambu => Sys2Proof.Machine.execToextJambu s
  | .toextPhoton => Sys2Proof.Machine.execToextPhoton s
  | .toextXoodoo => Sys2Proof.Machine.execToextXoodoo s
  | .schedGift => Sys2Proof.Machine.execSchedGift s
  | .schedSkinny => Sys2Proof.Machine.execSchedSkinny s
  | .schedJambu => Sys2Proof.Machine.execSchedJambu s
  | .roundsGift start count => Sys2Proof.Machine.execRoundsGift start count s
  | .roundsSkinny start count => Sys2Proof.Machine.execRoundsSkinny start count s
  | .roundsAscon start count => Sys2Proof.Machine.execRoundsAscon start count s
  | .roundsGrain count width mode => Sys2Proof.Machine.execRoundsGrain count width mode s
  | .roundsSparkle start count branches => Sys2Proof.Machine.execRoundsSparkle start count branches s
  | .roundsJambu count => Sys2Proof.Machine.execRoundsJambu count s
  | .roundsPhoton start count => Sys2Proof.Machine.execRoundsPhoton start count s
  | .roundsXoodoo start count => Sys2Proof.Machine.execRoundsXoodoo start count s

end Sys2Proof.Machine
end

