-- ==== Sys2Proof/Machine/Engine.lean ====
section
/-! DEFINITION. The turns of the engine and of the outside world (10_state.md R20; 60_exceptions.md R351). -/

namespace Sys2Proof.Machine

/-- The engine's turn: completion of the command in flight, whose word is decoded and run; nothing when there is none, or
while reset is asserted (60_exceptions.md R351; 70_reset_and_hazards.md R380). A word in `PEND` always decodes, since
acceptance checked it (R344); for one that does not, see log entry 5. -/
def engineTurn (s : State) : Result :=
  if s.inReset then .next s
  else
    match s.pend with
    | none => .next s
    | some c =>
      match decode s.primPresent c with
      | .ok i => exec i s
      | .error e => .next (s.reject e c).retire

/-- One turn of the agenda (log entry 1). -/
def turn (s : State) : Turn → Result
  | .read host off bytes => .next (hostRead s host off bytes)
  | .write host off bytes v => .next (hostWrite s host off bytes v)
  | .engine => engineTurn s
  | .assertReset => .next s.assertReset
  | .releaseReset => .next s.releaseReset

/-- The command word of an opcode-table row's bits: the bits from `nbits` up are 0 (30_encoding.md R80). -/
def fetchWord (nbits w : Nat) : Word := BitVec.ofNat 32 (w % 2 ^ nbits)

/-- The agenda whose next turn is the engine's: an empty agenda is one already. -/
def engineNext : List Turn → List Turn
  | [] => []
  | t :: rest => .engine :: t :: rest

end Sys2Proof.Machine
end

