-- ==== Sys2Proof/Machine/Step.lean ====
section
/-! DEFINITION. One step of the machine: the next turn of the agenda, or, when none is left, the engine's (60_exceptions.md
R351: completion is enabled until it fires). -/

namespace Sys2Proof.Machine

/-- One step. With an empty agenda and no command in flight the engine is idle and nothing changes (60_exceptions.md R375). -/
def step (s : State) : Host.Outcome State Fault Refusal :=
  match s.agenda with
  | [] => engineTurn s
  | t :: rest => turn { s with agenda := rest } t

/-- `s` with a command in flight, accepted, and the engine's turn next: the very next step runs it (log entry 6). -/
def State.withFetchWord (s : State) (nbits w : Nat) : State :=
  { s with pend := some (fetchWord nbits w), inReset := false, agenda := engineNext s.agenda }

end Sys2Proof.Machine
end

