-- ==== Sys2Proof/Machine/Run.lean ====
section
/-! DEFINITION. The run of a host program: where it ends, and what is observed of it there (70_reset_and_hazards.md R395). The
program is the list of accesses that one host has in the agenda; other hosts' turns may stand between them (log entry 13). -/

namespace Sys2Proof.Machine

/-- An access of the host's program. -/
def Turn.isAccessOf (host : Nat) : Turn → Bool
  | .read h _ _ => h == host
  | .write h _ _ _ => h == host
  | .engine | .assertReset | .releaseReset => false

/-- The run of the host's program is over: its last access has completed and `BUSY` = 0 (70_reset_and_hazards.md R395). -/
def State.runOver (s : State) (host : Nat) : Bool := !s.busy && !s.agenda.any (Turn.isAccessOf host)

/-- What an answer adds to the values of the reads: nothing for a write; `none` for a read whose value the observation does not
include (70_reset_and_hazards.md R395). -/
def BusResponse.observed : BusResponse → List (Option Word)
  | .readData v => [some v]
  | .freeData _ => [none]
  | .readError _ v => [some v]
  | .writeDone | .writeError _ => []

/-- The values of the host's reads, the first read first. -/
def State.readValues (s : State) (host : Nat) : List (Option Word) :=
  (s.responses.reverse.filter fun a => a.host == host).flatMap fun a => a.response.observed

/-- The observation of a run: every item of 10_state.md R21, and the values of the host's reads (70_reset_and_hazards.md R395). -/
structure Observation where
  id : Word
  cap : Word
  w : Words
  data : Vector Byte 64
  key : Vector Byte 48
  mkey : Material
  mprim : Nibble
  mvalid : Bool
  ieDone : Bool
  ieErr : Bool
  busy : Bool
  done : Bool
  err : Bool
  ovr : Bool
  ecode : ErrorCode
  lprim : Nibble
  lvalid : Bool
  ecmd : Word
  pend : Option Word
  irq : Bool
  reads : List (Option Word)
deriving DecidableEq, Repr

/-- The observation in a state. -/
def State.observation (s : State) (host : Nat) : Observation where
  id := engineId
  cap := s.cap
  w := s.w
  data := tabulate 64 fun i => s.data i.val
  key := s.keySnapshot
  mkey := s.mkey
  mprim := s.mprim
  mvalid := s.mvalid
  ieDone := s.ieDone
  ieErr := s.ieErr
  busy := s.busy
  done := s.done
  err := s.err
  ovr := s.ovr
  ecode := s.ecode
  lprim := s.lprim
  lvalid := s.lvalid
  ecmd := s.ecmd
  pend := s.pend
  irq := s.irq
  reads := s.readValues host

/-- Step until the run is over, at most `fuel` times, and observe it there; `none` when it is not over: a run that ends with
`BUSY` = 1 is no run (70_reset_and_hazards.md R395). -/
def State.observeWithin (host : Nat) : Nat → State → Option Observation
  | 0, s => if s.runOver host then some (s.observation host) else none
  | fuel + 1, s =>
    if s.runOver host then some (s.observation host)
    else
      match step s with
      | .next t => t.observeWithin host fuel
      | .fault _ => none
      | .refused _ => none

/-- The observation of the run of the host's program that begins in `s`: its accesses are those of the agenda, and the engine's
turn after the last of all turns completes what is still in flight. -/
def State.runObservation (s : State) (host : Nat) : Option Observation :=
  ({ s with responses := [] } : State).observeWithin host (s.agenda.length + 1)

end Sys2Proof.Machine
end

