-- ==== Sys2Proof/Safety.lean ====
section
/-! DEFINITION. The invariant of a run: what the spec says holds between steps whatever the host does. Then the terms that
statements about commands use. -/

namespace Sys2Proof.Machine

/-- The byte memory is in canonical form and lists only bytes of `DATA` and `KEY` (20_memory.md R54). -/
def State.memoryOk (s : State) : Prop :=
  s.mem.wf = true ∧ ∀ cell ∈ s.mem, dataBase ≤ cell.1 ∧ cell.1 < 0x170

/-- The command in flight passes every check of 60_exceptions.md R341 (R344, R352). -/
def State.pendAccepted (s : State) : Prop := ∀ c, s.pend = some c → issueCheck s c = none

/-- The layout tag (10_state.md R25, R39): without a layout the tag and `STATE` are 0; with one, the tag names a primitive
of the build and the words it does not use are 0. -/
def State.layoutTagOk (s : State) : Prop :=
  (s.lvalid = false → s.lprim = 0#4 ∧ ∀ k, (h : k < 16) → s.w[k] = 0#32) ∧
  (s.lvalid = true → ∃ p : Prim, s.lprim = p.code ∧ s.present p = true ∧
    ∀ k, (h : k < 16) → primWords p ≤ k → s.w[k] = 0#32)

/-- The material tag (10_state.md R28, R40): without material the tag and `MKEY` are 0; with it, the tag names a keyed
primitive of the build. -/
def State.materialTagOk (s : State) : Prop :=
  (s.mvalid = false → s.mprim = 0#4 ∧ ∀ k, (h : k < 48) → s.mkey[k] = 0#8) ∧
  (s.mvalid = true → ∃ p : Prim, s.mprim = p.code ∧ p.keyed = true ∧ s.present p = true)

/-- `E_NONE` is never written by a rejection: while `ECODE` is 0 no rejection has happened (60_exceptions.md R340, R343). -/
def State.errorRecordOk (s : State) : Prop := s.ecode = .eNone → s.err = false ∧ s.ecmd = 0#32

/-- While reset is asserted every item holds its reset value: log entry 8's choice, since 70_reset_and_hazards.md R380 gives the
values at release only. -/
def State.heldInReset (s : State) : Prop := s.inReset = true → s = s.resetItems

/-- The invariant of a run. -/
structure State.Inv (s : State) : Prop where
  memory : s.memoryOk
  pending : s.pendAccepted
  layoutTag : s.layoutTagOk
  materialTag : s.materialTagOk
  errorRecord : s.errorRecordOk
  held : s.heldInReset

/-! ## Commands as the spec's rules describe them

The relations below are written from the rules on bits and words, apart from the machine's own definitions, so that a
statement that uses one compares two readings of a rule. -/

/-- `v[lo+width-1 : lo]` as a number (00_scope.md R11). -/
def fieldOf (c : Word) (lo width : Nat) : Nat := c.toNat / 2 ^ lo % 2 ^ width

/-- The checks of 60_exceptions.md R341 in order, each with its code, on the six fields of a word as numbers; the fields a
command uses are those of 30_encoding.md R84, the `VAR` values of R85, the ranges of R86. -/
def orderedChecks (s : State) (op prim start count var rsv : Nat) : List (Bool × ErrorCode) :=
  [(decide (6 ≤ op), .eOp),
    (decide (rsv ≠ 0), .eField),
    (decide (op ∈ [2, 3, 4, 5] ∧ (8 ≤ prim ∨ s.cap.getLsbD prim = false)), .ePrim),
    (decide (op = 4 ∧ prim ∉ [0, 1, 5]), .eCombo),
    (decide (op ∈ [0, 1] ∧ prim ≠ 0), .eField),
    (decide ((start ≠ 0 ∧ ¬(op = 5 ∧ prim ∈ [0, 1, 2, 4, 6, 7])) ∨ (count ≠ 0 ∧ op ≠ 5) ∨
      (var ≠ 0 ∧ ¬(op = 5 ∧ prim ∈ [3, 4]))), .eField),
    (decide (op = 5 ∧ ((prim = 4 ∧ 2 < var) ∨ (prim = 3 ∧ 3 < var))), .eVar),
    (decide (op = 5 ∧ ((prim ∈ [0, 1] ∧ 40 < start + count) ∨ (prim ∈ [2, 6, 7] ∧ 12 < start + count) ∨
      (prim = 3 ∧ (if var % 2 = 0 then 8 else 16) < count))), .eRange),
    (decide (op ∈ [3, 5] ∧ ¬(s.lvalid = true ∧ s.lprim.toNat = prim)), .eLayout),
    (decide (op = 5 ∧ prim ∈ [0, 1, 5] ∧ ¬(s.mvalid = true ∧ s.mprim.toNat = prim)), .eMat)]

/-- The checks of a word, its fields taken from 30_encoding.md R81. -/
def checksOf (s : State) (c : Word) : List (Bool × ErrorCode) :=
  orderedChecks s (fieldOf c 0 4) (fieldOf c 4 4) (fieldOf c 8 8) (fieldOf c 16 8) (fieldOf c 24 4) (fieldOf c 28 4)

/-- What 60_exceptions.md R341 and R350 make of a `CMD` write of `c` while `BUSY` = 0. -/
def issued (s : State) (c : Word) : State :=
  match (checksOf s c).find? (fun check => check.1) with
  | some check => { s with err := true, ecode := check.2, ecmd := c }
  | none => { s with pend := some c }

/-- A legal read at `off` answers `v` and changes nothing, whichever host issues it (20_memory.md R52). -/
def ReadsAs (s : State) (off : Nat) (v : Word) : Prop :=
  ∀ host : Nat, turn s (.read host (BitVec.ofNat 9 off) 4) = .next { s with responses := ⟨host, .readData v⟩ :: s.responses }

/-- A legal write of `v` at `off` makes the state `t`, apart from the answer on the bus, whichever host issues it
(20_memory.md R53). -/
def WriteMakes (s : State) (off : Nat) (v : Word) (t : State) : Prop :=
  ∀ host : Nat, turn s (.write host (BitVec.ofNat 9 off) 4 v) = .next { t with responses := ⟨host, .writeDone⟩ :: t.responses }

/-- The reserved offsets of 20_memory.md R54. -/
def reservedOffset (off : Nat) : Prop :=
  off % 4 = 0 ∧ ((0x018 ≤ off ∧ off ≤ 0x0FC) ∨ (0x170 ≤ off ∧ off ≤ 0x17C) ∨ (0x1C0 ≤ off ∧ off ≤ 0x1FC))

/-- The first word a primitive does not use is the n-th (10_state.md R25): from there on nothing changes. -/
def SameFrom (n : Nat) (w w' : Words) : Prop := ∀ k, (h : k < 16) → n ≤ k → w'[k] = w[k]

/-- The table of GS (42_gift.md R162). -/
def giftSboxTable : List Nat := [0x1, 0xA, 0x4, 0xC, 0x6, 0xF, 0x3, 0x9, 0x2, 0xD, 0xB, 0x7, 0x5, 0x0, 0x8, 0xE]

/-- The bit `j` of a number. -/
def bitOf (v j : Nat) : Bool := v / 2 ^ j % 2 == 1

/-- Nibble i of the segments, `S3[i]·8 + S2[i]·4 + S1[i]·2 + S0[i]` (42_gift.md R162). -/
def giftNibble (w : Words) (i : Nat) : Nat :=
  8 * (w[3].getLsbD i).toNat + 4 * (w[2].getLsbD i).toNat + 2 * (w[1].getLsbD i).toNat + (w[0].getLsbD i).toNat

/-- The word that AddRoundKey of a round adds to segment j (42_gift.md R166). -/
def giftAdded (u v : Word) (c : Nat) (j : Nat) : Word :=
  match j with
  | 1 => v
  | 2 => u
  | 3 => 0x80000000#32 ^^^ BitVec.ofNat 32 c
  | _ => 0#32

/-- Round r of GIFT on the word file, by the table of GS and the formula of PermBits (42_gift.md R161 to R163, R166). -/
def GiftRound (u v : Word) (c : Nat) (w w' : Words) : Prop :=
  SameFrom 4 w w' ∧
    ∀ j i, (hj : j < 4) → i < 32 →
      (w'[j]).getLsbD (i / 4 + 8 * ((j + 4 - i % 4) % 4)) =
        (bitOf (giftSboxTable.getD (giftNibble w i) 0) j ^^
          (giftAdded u v c j).getLsbD (i / 4 + 8 * ((j + 4 - i % 4) % 4)))

/-- The key words κ of every round: `κ r i` is κ_i of round r's key state (42_gift.md R164, R165). -/
def GiftKeys (m : Material) (κ : Nat → Nat → Half) : Prop :=
  (∀ i, (h : i < 8) → κ 0 i = m[14 - 2 * i] ++ m[15 - 2 * i]) ∧
    ∀ r, κ (r + 1) 7 = (κ r 1).rotateRight 2 ∧ κ (r + 1) 6 = (κ r 0).rotateRight 12 ∧
      ∀ i, i < 6 → κ (r + 1) i = κ r (i + 2)

/-- The round constants of 42_gift.md R167 and 43_skinny.md R194, as the rules list them. -/
def constantTable : List Nat :=
  [0x01, 0x03, 0x07, 0x0F, 0x1F, 0x3E, 0x3D, 0x3B, 0x37, 0x2F, 0x1E, 0x3C, 0x39, 0x33, 0x27, 0x0E, 0x1D, 0x3A, 0x35, 0x2B] ++
  [0x16, 0x2C, 0x18, 0x30, 0x21, 0x02, 0x05, 0x0B, 0x17, 0x2E, 0x1C, 0x38, 0x31, 0x23, 0x06, 0x0D, 0x1B, 0x36, 0x2D, 0x1A]

/-- One pass of the circuit of SB8 before its wires are moved (43_skinny.md R193); bit 7 comes first. -/
def skinnyGates : List Bool → List Bool
  | [x7, x6, x5, x4, x3, x2, x1, x0] => [x7, x6, x5, x4 ^^ !(x7 || x6), x3, x2, x1, x0 ^^ !(x3 || x2)]
  | other => other

/-- The wires after passes 0 to 2 (43_skinny.md R193). -/
def skinnyWires : List Bool → List Bool
  | [x7, x6, x5, x4, x3, x2, x1, x0] => [x2, x1, x7, x6, x4, x0, x3, x5]
  | other => other

/-- The wires after pass 3 (43_skinny.md R193). -/
def skinnyLastWires : List Bool → List Bool
  | [x7, x6, x5, x4, x3, x2, x1, x0] => [x7, x6, x5, x4, x3, x1, x2, x0]
  | other => other

/-- The bits of a byte, bit 7 first. -/
def bitsOfByte (x : Byte) : List Bool := [7, 6, 5, 4, 3, 2, 1, 0].map x.getLsbD

/-- SB8 as a circuit, on bits (43_skinny.md R193). -/
def skinnyCircuit (bits : List Bool) : List Bool :=
  let pass := fun b => skinnyWires (skinnyGates b)
  skinnyLastWires (skinnyGates (pass (pass (pass bits))))

/-- Cell i of the SKINNY state (41_layout.md R136). -/
def skinnyCell (w : Words) (i : Nat) : Byte := byteOf ((w[i / 4]?).getD 0#32) (i % 4)

/-- PT, as 43_skinny.md R198 lists it. -/
def tweakeyOrder : List Nat := [9, 15, 8, 13, 10, 14, 12, 11, 0, 1, 2, 3, 4, 5, 6, 7]

/-- The tweakey of every round: `tk r p i` is cell i of part TKp (p = 1, 2, 3) in round r (43_skinny.md R192, R198). -/
def SkinnyTweakeys (key : Nat → Byte) (m : Material) (tk : Nat → Nat → Nat → Byte) : Prop :=
  (∀ i, (h : i < 16) → tk 0 1 i = key i ∧ tk 0 2 i = m[16 + i] ∧ tk 0 3 i = m[32 + i]) ∧
    ∀ r i, i < 16 →
      let old := fun p => tk r p (tweakeyOrder.getD i 0)
      tk (r + 1) 1 i = old 1 ∧
        (8 ≤ i → tk (r + 1) 2 i = old 2 ∧ tk (r + 1) 3 i = old 3) ∧
        (i < 8 → ∀ b, b < 8 →
          (tk (r + 1) 2 i).getLsbD b =
              (if b = 0 then (old 2).getLsbD 7 ^^ (old 2).getLsbD 5 else (old 2).getLsbD (b - 1)) ∧
            (tk (r + 1) 3 i).getLsbD b =
              (if b = 7 then (old 3).getLsbD 0 ^^ (old 3).getLsbD 6 else (old 3).getLsbD (b + 1)))

/-- Cell (row, col) after SubCells, AddConstants and AddRoundTweakey (43_skinny.md R193 to R195). -/
def skinnyKeyed (tk : Nat → Nat → Byte) (c : Nat) (w : Words) (row col : Nat) : Byte :=
  let i := 4 * row + col
  let added : Byte :=
    if i = 0 then BitVec.ofNat 8 (c % 16)
    else if i = 4 then BitVec.ofNat 8 (c / 16)
    else if i = 8 then 0x02#8
    else 0#8
  let key : Byte := if row < 2 then tk 1 i ^^^ tk 2 i ^^^ tk 3 i else 0#8
  skinnySbox (skinnyCell w i) ^^^ added ^^^ key

/-- Round r of SKINNY on the word file: row j of the keyed cells is rotated right by j, then each column is mixed
(43_skinny.md R191, R196, R197). -/
def SkinnyRound (tk : Nat → Nat → Byte) (c : Nat) (w w' : Words) : Prop :=
  SameFrom 4 w w' ∧
    ∀ col, col < 4 →
      let a := fun row => skinnyKeyed tk c w row ((col + 4 - row) % 4)
      skinnyCell w' col = a 0 ^^^ a 2 ^^^ a 3 ∧
        skinnyCell w' (4 + col) = a 0 ∧
        skinnyCell w' (8 + col) = a 1 ^^^ a 2 ∧
        skinnyCell w' (12 + col) = a 0 ^^^ a 2

/-- The table of the Ascon S-box (44_ascon.md R223). -/
def asconSboxTable : List Nat :=
  [0x04, 0x0B, 0x1F, 0x14, 0x1A, 0x15, 0x09, 0x02, 0x1B, 0x05, 0x08, 0x12, 0x1D, 0x03, 0x06, 0x1C] ++
  [0x1E, 0x13, 0x07, 0x0E, 0x00, 0x0D, 0x11, 0x18, 0x10, 0x0C, 0x01, 0x19, 0x16, 0x0A, 0x0F, 0x17]

/-- The constants c_0 … c_11 (44_ascon.md R222). -/
def asconConstantTable : List Nat := [0xF0, 0xE1, 0xD2, 0xC3, 0xB4, 0xA5, 0x96, 0x87, 0x78, 0x69, 0x5A, 0x4B]

/-- Bit j of x_i in the word file (44_ascon.md R220). -/
def asconBit (w : Words) (i j : Nat) : Bool :=
  if j < 32 then ((w[2 * i]?).getD 0#32).getLsbD j else ((w[2 * i + 1]?).getD 0#32).getLsbD (j - 32)

/-- Bit j of x_i after the constant and the S-box, by its table (44_ascon.md R222, R223). -/
def asconSubstituted (r : Nat) (w : Words) (i j : Nat) : Bool :=
  let x2 := asconBit w 2 j ^^ bitOf (asconConstantTable.getD r 0) j
  let v := 16 * (asconBit w 0 j).toNat + 8 * (asconBit w 1 j).toNat + 4 * x2.toNat + 2 * (asconBit w 3 j).toNat +
    (asconBit w 4 j).toNat
  bitOf (asconSboxTable.getD v 0) (4 - i)

/-- The two rotation amounts of x_i (44_ascon.md R224). -/
def asconRotations : List (Nat × Nat) := [(19, 28), (61, 39), (1, 6), (10, 17), (7, 41)]

/-- Round r of Ascon on the word file, bit by bit (44_ascon.md R221 to R224). -/
def AsconRound (r : Nat) (w w' : Words) : Prop :=
  SameFrom 10 w w' ∧
    ∀ i j, i < 5 → j < 64 →
      asconBit w' i j =
        (asconSubstituted r w i j ^^ asconSubstituted r w i ((j + (asconRotations.getD i (0, 0)).1) % 64) ^^
          asconSubstituted r w i ((j + (asconRotations.getD i (0, 0)).2) % 64))

/-- Bit q of the words from the k-th on, bit 0 of word k first (41_layout.md R140, R144). -/
def areaBit (w : Words) (k q : Nat) : Bool := ((w[k + q / 32]?).getD 0#32).getLsbD (q % 32)

/-- f at time t of an LFSR bit sequence (45_grain.md R242). -/
def grainFAt (s : Nat → Bool) (t : Nat) : Bool :=
  s t ^^ s (t + 7) ^^ s (t + 38) ^^ s (t + 70) ^^ s (t + 81) ^^ s (t + 96)

/-- g at time t of an NFSR bit sequence (45_grain.md R242). -/
def grainGAt (b : Nat → Bool) (t : Nat) : Bool :=
  b t ^^ b (t + 26) ^^ b (t + 56) ^^ b (t + 91) ^^ b (t + 96) ^^ (b (t + 3) && b (t + 67)) ^^
    (b (t + 11) && b (t + 13)) ^^ (b (t + 17) && b (t + 18)) ^^ (b (t + 27) && b (t + 59)) ^^
    (b (t + 40) && b (t + 48)) ^^ (b (t + 61) && b (t + 65)) ^^ (b (t + 68) && b (t + 84)) ^^
    (b (t + 22) && b (t + 24) && b (t + 25)) ^^ (b (t + 70) && b (t + 78) && b (t + 82)) ^^
    (b (t + 88) && b (t + 92) && b (t + 93) && b (t + 95))

/-- The pre-output at time t (45_grain.md R241, R242). -/
def grainYAt (b s : Nat → Bool) (t : Nat) : Bool :=
  (b (t + 12) && s (t + 8)) ^^ (s (t + 13) && s (t + 20)) ^^ (b (t + 95) && s (t + 42)) ^^ (s (t + 60) && s (t + 79)) ^^
    (b (t + 12) && b (t + 95) && s (t + 94)) ^^ s (t + 93) ^^ b (t + 2) ^^ b (t + 15) ^^ b (t + 36) ^^ b (t + 45) ^^
    b (t + 64) ^^ b (t + 73) ^^ b (t + 89)

/-- Two bit sequences are the generator's for n clocks from the registers in `w`: the first 128 bits are the registers, and
each clock appends one bit to each (45_grain.md R240, R241, R243). -/
def GrainSequences (mode : GrainMode) (n : Nat) (w : Words) (b s : Nat → Bool) : Prop :=
  (∀ i, i < 128 → b i = areaBit w 0 i ∧ s i = areaBit w 4 i) ∧
    ∀ t, t < n →
      s (t + 128) = (grainFAt s t ^^ (decide (mode = .init) && grainYAt b s t)) ∧
        b (t + 128) = (s t ^^ grainGAt b t ^^ (decide (mode = .init) && grainYAt b s t))

/-- The branch i of the word file (46_sparkle.md R260). -/
def sparkleBranch (w : Words) (i : Nat) : Word × Word := ((w[2 * i]?).getD 0#32, (w[2 * i + 1]?).getD 0#32)

/-- The branch i after the constants of step s and the ARX-box (46_sparkle.md R261). -/
def sparkleBoxed (s : Nat) (w : Words) (i : Nat) : Word × Word :=
  let v := sparkleBranch w i
  let y := if i = 0 then v.2 ^^^ sparkleConstant (s % 8) else if i = 1 then v.2 ^^^ BitVec.ofNat 32 s else v.2
  alzette (sparkleConstant i) (v.1, y)

/-- Step s of SPARKLE with B = 2h branches on the word file (46_sparkle.md R261, R265). -/
def SparkleStep (h s : Nat) (w w' : Words) : Prop :=
  SameFrom (4 * h) w w' ∧
    let a := sparkleBoxed s w
    let tx := sparkleEll ((List.range h).foldr (fun i acc => (a i).1 ^^^ acc) 0#32)
    let ty := sparkleEll ((List.range h).foldr (fun i acc => (a i).2 ^^^ acc) 0#32)
    ∀ i, i < h →
      sparkleBranch w' ((i + h - 1) % h) = ((a (i + h)).1 ^^^ (a i).1 ^^^ ty, (a (i + h)).2 ^^^ (a i).2 ^^^ tx) ∧
        sparkleBranch w' (i + h) = a i

/-- A bit sequence is TinyJAMBU's for n steps from the state in `w` under the key bits `k` (47_jambu.md R280, R281). -/
def JambuSequence (k : Nat → Bool) (n : Nat) (w : Words) (x : Nat → Bool) : Prop :=
  (∀ i, i < 128 → x i = areaBit w 0 i) ∧
    ∀ t, t < n → x (t + 128) = (x t ^^ x (t + 47) ^^ !(x (t + 70) && x (t + 85)) ^^ x (t + 91) ^^ k (t % 128))

/-- Cell (r, c) of the PHOTON state (41_layout.md R146). -/
def photonNibble (w : Words) (r k : Nat) : Nibble := ((w[r]?).getD 0#32).extractLsb' (4 * k) 4

/-- Cell (r, k) after AddConstant of round t, SubCells and ShiftRows (48_photon.md R302 to R304). -/
def photonShifted (t : Nat) (w : Words) (r k : Nat) : Nibble :=
  let from_ := (k + r) % 8
  photonSbox (if from_ = 0 then photonNibble w r 0 ^^^ photonRoundConstant t ^^^ photonRowConstant r
    else photonNibble w r from_)

/-- One step of the serial matrix A on a column (48_photon.md R305): the cells move up, the last is the combination with
coefficients 2, 4, 2, 11, 2, 8, 5, 6. -/
def photonSerialStep (col : Nat → Nibble) (i : Nat) : Nibble :=
  if i < 7 then col (i + 1)
  else
    gfMul 2#4 (col 0) ^^^ gfMul 4#4 (col 1) ^^^ gfMul 2#4 (col 2) ^^^ gfMul 11#4 (col 3) ^^^ gfMul 2#4 (col 4) ^^^
      gfMul 8#4 (col 5) ^^^ gfMul 5#4 (col 6) ^^^ gfMul 6#4 (col 7)

/-- `n` steps of the serial matrix. -/
def photonSerial : Nat → (Nat → Nibble) → Nat → Nibble
  | 0, col => col
  | n + 1, col => photonSerial n (photonSerialStep col)

/-- The product of two polynomials over GF(2), not reduced. -/
def carrylessProduct (a b : Nibble) : Byte :=
  [0, 1, 2, 3].foldr (fun i acc => (if b.getLsbD i then a.setWidth 8 <<< i else 0#8) ^^^ acc) 0#8

/-- Reduction modulo x^4 + x + 1, 0x13, from the top bit down (48_photon.md R305). -/
def reduced (v : Byte) : Nibble :=
  let cut := fun (v : Byte) (i : Nat) => if v.getLsbD (i + 4) then v ^^^ (0x13#8 <<< i) else v
  (cut (cut (cut v 2) 1) 0).setWidth 4

/-- Round t of PHOTON on the word file, MixColumnSerial as eight steps of the serial matrix (48_photon.md R301 to R305). -/
def PhotonRound (t : Nat) (w w' : Words) : Prop :=
  SameFrom 8 w w' ∧
    ∀ i j, i < 8 → j < 8 → photonNibble w' i j = photonSerial 8 (fun k => photonShifted t w k j) i

/-- Lane x of plane y (49_xoodoo.md R320); y is taken modulo 3, x modulo 4. -/
def xoodooLane (w : Words) (y x : Nat) : Word := (w[4 * (y % 3) + x % 4]?).getD 0#32

/-- Lane x of plane y after θ (49_xoodoo.md R322). -/
def xoodooMixed (w : Words) (y x : Nat) : Word :=
  let p := fun x => xoodooLane w 0 x ^^^ xoodooLane w 1 x ^^^ xoodooLane w 2 x
  xoodooLane w y x ^^^ (p (x + 3)).rotateLeft 5 ^^^ (p (x + 3)).rotateLeft 14

/-- Lane x of plane y after θ, ρ_west and ι of round r (49_xoodoo.md R322 to R324). -/
def xoodooWest (r : Nat) (w : Words) (y x : Nat) : Word :=
  match y % 3 with
  | 0 => xoodooMixed w 0 x ^^^ (if x % 4 = 0 then xoodooConstant r else 0#32)
  | 1 => xoodooMixed w 1 (x + 3)
  | _ => (xoodooMixed w 2 x).rotateLeft 11

/-- Lane x of plane y after χ (49_xoodoo.md R325). -/
def xoodooNonlinear (r : Nat) (w : Words) (y x : Nat) : Word :=
  xoodooWest r w y x ^^^ (~~~xoodooWest r w (y + 1) x &&& xoodooWest r w (y + 2) x)

/-- Round r of Xoodoo on the word file (49_xoodoo.md R321 to R326). -/
def XoodooRound (r : Nat) (w w' : Words) : Prop :=
  SameFrom 12 w w' ∧
    ∀ x, x < 4 →
      xoodooLane w' 0 x = xoodooNonlinear r w 0 x ∧
        xoodooLane w' 1 x = (xoodooNonlinear r w 1 x).rotateLeft 1 ∧
        xoodooLane w' 2 x = (xoodooNonlinear r w 2 (x + 2)).rotateLeft 8

/-- One word update of the word form of TinyJAMBU under the key word `k` (47_jambu.md R283). -/
def jambuWordUpdate (k : Word) (x : Word × Word × Word × Word) : Word × Word × Word × Word :=
  let (s0, s1, s2, s3) := x
  let t1 := (s1 >>> 15) ||| (s2 <<< 17)
  let t2 := (s2 >>> 6) ||| (s3 <<< 26)
  let t3 := (s2 >>> 21) ||| (s3 <<< 11)
  let t4 := (s2 >>> 27) ||| (s3 <<< 5)
  (s1, s2, s3, s0 ^^^ t1 ^^^ ~~~(t2 &&& t3) ^^^ t4 ^^^ k)

/-- The primitive whose layout a command requires: `TOEXT` and `ROUNDS` (10_state.md R39). -/
def layoutNeeded : Instr → Option Prim
  | .toextGift | .roundsGift _ _ => some .gift
  | .toextSkinny | .roundsSkinny _ _ => some .skinny
  | .toextAscon | .roundsAscon _ _ => some .ascon
  | .toextGrain | .roundsGrain _ _ _ => some .grain
  | .toextSparkle | .roundsSparkle _ _ _ => some .sparkle
  | .toextJambu | .roundsJambu _ => some .jambu
  | .toextPhoton | .roundsPhoton _ _ => some .photon
  | .toextXoodoo | .roundsXoodoo _ _ => some .xoodoo
  | .nop | .clear
  | .tointGift | .tointSkinny | .tointAscon | .tointGrain | .tointSparkle | .tointJambu | .tointPhoton | .tointXoodoo
  | .schedGift | .schedSkinny | .schedJambu => none

/-- The primitive whose material a command requires: `ROUNDS` of the keyed primitives (10_state.md R40). -/
def materialNeeded : Instr → Option Prim
  | .roundsGift _ _ => some .gift
  | .roundsSkinny _ _ => some .skinny
  | .roundsJambu _ => some .jambu
  | .nop | .clear
  | .tointGift | .tointSkinny | .tointAscon | .tointGrain | .tointSparkle | .tointJambu | .tointPhoton | .tointXoodoo
  | .toextGift | .toextSkinny | .toextAscon | .toextGrain | .toextSparkle | .toextJambu | .toextPhoton | .toextXoodoo
  | .schedGift | .schedSkinny | .schedJambu
  | .roundsAscon _ _ | .roundsGrain _ _ _ | .roundsSparkle _ _ _ | .roundsPhoton _ _ | .roundsXoodoo _ _ => none

/-- The layout a command gives `STATE`: `TOINT` (41_layout.md R131). -/
def layoutGiven : Instr → Option Prim
  | .tointGift => some .gift
  | .tointSkinny => some .skinny
  | .tointAscon => some .ascon
  | .tointGrain => some .grain
  | .tointSparkle => some .sparkle
  | .tointJambu => some .jambu
  | .tointPhoton => some .photon
  | .tointXoodoo => some .xoodoo
  | .nop | .clear
  | .toextGift | .toextSkinny | .toextAscon | .toextGrain | .toextSparkle | .toextJambu | .toextPhoton | .toextXoodoo
  | .schedGift | .schedSkinny | .schedJambu
  | .roundsGift _ _ | .roundsSkinny _ _ | .roundsAscon _ _ | .roundsGrain _ _ _ | .roundsSparkle _ _ _ | .roundsJambu _
  | .roundsPhoton _ _ | .roundsXoodoo _ _ => none

/-- The primitive a command schedules (40_control.md R112). -/
def scheduled : Instr → Option Prim
  | .schedGift => some .gift
  | .schedSkinny => some .skinny
  | .schedJambu => some .jambu
  | .nop | .clear
  | .tointGift | .tointSkinny | .tointAscon | .tointGrain | .tointSparkle | .tointJambu | .tointPhoton | .tointXoodoo
  | .toextGift | .toextSkinny | .toextAscon | .toextGrain | .toextSparkle | .toextJambu | .toextPhoton | .toextXoodoo
  | .roundsGift _ _ | .roundsSkinny _ _ | .roundsAscon _ _ | .roundsGrain _ _ _ | .roundsSparkle _ _ _ | .roundsJambu _
  | .roundsPhoton _ _ | .roundsXoodoo _ _ => none

/-- The turn that a step performs: the next of the agenda, the engine's when none is left (log entry 1). -/
def nextTurn (s : State) : Turn :=
  match s.agenda with
  | [] => .engine
  | t :: _ => t

/-- A step that performs a reset: the platform asserts reset, or releases a reset that is asserted
(70_reset_and_hazards.md R380). -/
def ResetsNow (s : State) : Prop := nextTurn s = .assertReset ∨ (nextTurn s = .releaseReset ∧ s.inReset = true)

/-- A step that completes the command `i`, which is in flight (60_exceptions.md R351). -/
def CompletesNow (s : State) (i : Instr) : Prop :=
  nextTurn s = .engine ∧ s.inReset = false ∧ ∃ c, s.pend = some c ∧ decode s.primPresent c = .ok i

/-- A step that performs a legal host write of `v` at `off` (20_memory.md R53). -/
def WritesNow (s : State) (off : Nat) (v : Word) : Prop :=
  (∃ host : Nat, nextTurn s = .write host (BitVec.ofNat 9 off) 4 v) ∧ s.inReset = false

/-- A turn of the host. -/
def Turn.isHost : Turn → Bool
  | .read _ _ _ | .write _ _ _ _ => true
  | .engine | .assertReset | .releaseReset => false

/-- A command that runs its rounds `start … start+count−1` one after the other on the word file: `x r` is the word file
before round r (00_scope.md R14, 30_encoding.md R88). -/
def RunsRounds (round : Nat → Words → Words → Prop) (start count : Nat) (w w' : Words) : Prop :=
  ∃ x : Nat → Words, x start = w ∧ (∀ r, start ≤ r → r < start + count → round r (x r) (x (r + 1))) ∧ x (start + count) = w'

/-! ## Runs (70_reset_and_hazards.md R395) -/

/-- The run of the host's program is over: `BUSY` = 0 and none of its accesses is to come. -/
def RunEnds (host : Nat) (s : State) : Prop :=
  s.busy = false ∧ ∀ t ∈ s.agenda, ∀ off bytes v, t ≠ .read host off bytes ∧ t ≠ .write host off bytes v

/-- A read that another host issues. -/
def Turn.isReadOfAnother (host : Nat) : Turn → Bool
  | .read h _ _ => h != host
  | .write _ _ _ _ | .engine | .assertReset | .releaseReset => false

/-- The values of the host's reads, the first read first; `none` stands for a read of `DATA` or `STATE` while `BUSY` = 1. -/
def readsOf (host : Nat) (answers : List Answer) : List (Option Word) :=
  answers.reverse.flatMap fun a =>
    if a.host = host then
      match a.response with
      | .readData v => [some v]
      | .freeData _ => [none]
      | .readError _ v => [some v]
      | .writeDone | .writeError _ => []
    else []

/-- `o` is the tuple of the items of 10_state.md R21 in the state `t`, with the values of the host's reads. -/
structure Observes (host : Nat) (t : State) (o : Observation) : Prop where
  constants : o.id = 0x0430AEAD#32 ∧ o.cap = t.cap
  words : ∀ k, (h : k < 16) → o.w[k] = t.w[k]
  data : ∀ i, (h : i < 64) → o.data[i] = t.mem.read (0x100 + i)
  key : ∀ i, (h : i < 48) → o.key[i] = t.mem.read (0x140 + i)
  material : o.mkey = t.mkey ∧ o.mprim = t.mprim ∧ o.mvalid = t.mvalid
  layout : o.lprim = t.lprim ∧ o.lvalid = t.lvalid
  control : o.ieDone = t.ieDone ∧ o.ieErr = t.ieErr
  flags : o.busy = t.busy ∧ o.done = t.done ∧ o.err = t.err ∧ o.ovr = t.ovr
  error : o.ecode = t.ecode ∧ o.ecmd = t.ecmd
  pend : o.pend = t.pend
  irq : o.irq = t.irq
  reads : o.reads = readsOf host t.responses

end Sys2Proof.Machine
end

