-- ==== Sys2Proof/Certificates/Slice0/Obligations.lean ====
section
/-! DEFINITION. The statements for the provers. Each docstring names the rules of spec/ it formalises. -/

open Sys2Proof Sys2Proof.Machine

/-! ## Encoding -/

/-- Decoding an encoded command of the build gives the command back, with every operand (30_encoding.md R91 to R93). -/
def Obligations.DecodeOfEncodeIsTheCommand : Prop :=
  ∀ (cap : Byte) (i : Instr), i.wellFormed = true → i.builtIn cap = true → decode cap (encode i) = .ok i

/-- A word that decodes is the word of its command: no bit of it is dropped (30_encoding.md R90, R93). -/
def Obligations.EncodeOfDecodeIsTheWord : Prop :=
  ∀ (cap : Byte) (c : Word) (i : Instr), decode cap c = .ok i →
    encode i = c ∧ i.wellFormed = true ∧ i.builtIn cap = true

/-- 30_encoding.md R93: decoding is total; the first encoding check that fails gives the code; a word that passes them all
is the one row it matches. -/
def Obligations.EveryWordIsOneRowOrOneErrorCode : Prop :=
  ∀ (s : State) (c : Word),
    (match ((checksOf s c).take 8).find? (fun check => check.1) with
      | some check => decode s.primPresent c = .error check.2
      | none => ∃ i, decode s.primPresent c = .ok i ∧ i.rowMatches c = true) ∧
    ∀ i j : Instr, i.rowMatches c = true → j.rowMatches c = true → i.matchAndMask = j.matchAndMask

/-- Every row of 30_encoding.md R92, written out as a word, decodes to its command in the reference configuration. -/
def Obligations.TableWordsDecodeToTheirCommands : Prop :=
  (decode 0xFF#8 0x00000000#32 = .ok .nop ∧ decode 0xFF#8 0x00000001#32 = .ok .clear) ∧
  (decode 0xFF#8 0x00000002#32 = .ok .tointGift ∧ decode 0xFF#8 0x00000012#32 = .ok .tointSkinny ∧
    decode 0xFF#8 0x00000022#32 = .ok .tointAscon ∧ decode 0xFF#8 0x00000032#32 = .ok .tointGrain ∧
    decode 0xFF#8 0x00000042#32 = .ok .tointSparkle ∧ decode 0xFF#8 0x00000052#32 = .ok .tointJambu ∧
    decode 0xFF#8 0x00000062#32 = .ok .tointPhoton ∧ decode 0xFF#8 0x00000072#32 = .ok .tointXoodoo) ∧
  (decode 0xFF#8 0x00000003#32 = .ok .toextGift ∧ decode 0xFF#8 0x00000013#32 = .ok .toextSkinny ∧
    decode 0xFF#8 0x00000023#32 = .ok .toextAscon ∧ decode 0xFF#8 0x00000033#32 = .ok .toextGrain ∧
    decode 0xFF#8 0x00000043#32 = .ok .toextSparkle ∧ decode 0xFF#8 0x00000053#32 = .ok .toextJambu ∧
    decode 0xFF#8 0x00000063#32 = .ok .toextPhoton ∧ decode 0xFF#8 0x00000073#32 = .ok .toextXoodoo) ∧
  (decode 0xFF#8 0x00000004#32 = .ok .schedGift ∧ decode 0xFF#8 0x00000014#32 = .ok .schedSkinny ∧
    decode 0xFF#8 0x00000054#32 = .ok .schedJambu) ∧
  (decode 0xFF#8 0x00280005#32 = .ok (.roundsGift 0#8 40#8) ∧ decode 0xFF#8 0x00012715#32 = .ok (.roundsSkinny 39#8 1#8) ∧
    decode 0xFF#8 0x00060625#32 = .ok (.roundsAscon 6#8 6#8) ∧
    decode 0xFF#8 0x01100035#32 = .ok (.roundsGrain 16#8 .w16 .gen) ∧
    decode 0xFF#8 0x02080035#32 = .ok (.roundsGrain 8#8 .w32 .init) ∧
    decode 0xFF#8 0x01070045#32 = .ok (.roundsSparkle 0#8 7#8 .b6) ∧ decode 0xFF#8 0x00080055#32 = .ok (.roundsJambu 8#8) ∧
    decode 0xFF#8 0x000C0065#32 = .ok (.roundsPhoton 0#8 12#8) ∧ decode 0xFF#8 0x000C0075#32 = .ok (.roundsXoodoo 0#8 12#8))

/-- The pseudo-instructions of 30_encoding.md R91: the words their expansions are written as decode to them. `PERMUTE` of ASCON,
XOODOO and PHOTON runs the last n rounds, `PERMUTE.SPARKLE` the first n steps (R89; 46_sparkle.md R266), `ENCRYPT` all rounds from
0; `KEYSTREAM` asks for n words, of which a command gives at most 8. -/
def Obligations.PseudoInstructionsAreRoundsWords : Prop :=
  (∀ n : Fin 13,
    decode 0xFF#8 (BitVec.ofNat 32 (0x25 + 256 * (12 - n.val) + 65536 * n.val)) = .ok (Pseudo.permuteAscon n).expand ∧
    decode 0xFF#8 (BitVec.ofNat 32 (0x75 + 256 * (12 - n.val) + 65536 * n.val)) = .ok (Pseudo.permuteXoodoo n).expand ∧
    decode 0xFF#8 (BitVec.ofNat 32 (0x65 + 256 * (12 - n.val) + 65536 * n.val)) = .ok (Pseudo.permutePhoton n).expand) ∧
  (∀ (b : Branches) (n : Byte),
    decode 0xFF#8 (BitVec.ofNat 32 (0x45 + 65536 * n.toNat + 0x1000000 * ((b.number - 4) / 2))) =
      .ok (Pseudo.permuteSparkle b n).expand) ∧
  decode 0xFF#8 0x00280005#32 = .ok Pseudo.encryptGift.expand ∧
  decode 0xFF#8 0x00280015#32 = .ok Pseudo.encryptSkinny.expand ∧
  ∀ n : Byte, n.toNat ≤ 8 →
    decode 0xFF#8 (BitVec.ofNat 32 (0x35 + 65536 * n.toNat)) = .ok (Pseudo.keystreamGrain n).expand

/-- 30_encoding.md R86: the range constraints; a violation gives `E_RANGE`, and nothing else does. -/
def Obligations.RangeViolationsGiveERange : Prop :=
  ∀ (start count : Byte) (mode : GrainMode) (b : Branches),
    (decode 0xFF#8 (encode (.roundsGift start count)) = .error .eRange ↔ 40 < start.toNat + count.toNat) ∧
    (decode 0xFF#8 (encode (.roundsSkinny start count)) = .error .eRange ↔ 40 < start.toNat + count.toNat) ∧
    (decode 0xFF#8 (encode (.roundsAscon start count)) = .error .eRange ↔ 12 < start.toNat + count.toNat) ∧
    (decode 0xFF#8 (encode (.roundsPhoton start count)) = .error .eRange ↔ 12 < start.toNat + count.toNat) ∧
    (decode 0xFF#8 (encode (.roundsXoodoo start count)) = .error .eRange ↔ 12 < start.toNat + count.toNat) ∧
    decode 0xFF#8 (encode (.roundsSparkle start count b)) = .ok (.roundsSparkle start count b) ∧
    decode 0xFF#8 (encode (.roundsJambu count)) = .ok (.roundsJambu count) ∧
    (decode 0xFF#8 (encode (.roundsGrain count .w32 mode)) = .error .eRange ↔ 8 < count.toNat) ∧
    (decode 0xFF#8 (encode (.roundsGrain count .w16 mode)) = .error .eRange ↔ 16 < count.toNat)

/-! ## Issue: the checks, the rejection, the acceptance -/

/-- 60_exceptions.md R341 and R350: a `CMD` write while `BUSY` = 0 is decided by the first of the ten checks that holds: it
changes `ERR`, `ECODE` and `ECMD` only, or `PEND` (and with it `BUSY`) only. -/
def Obligations.CommandWriteFollowsTheCheckOrder : Prop :=
  ∀ (s : State) (c : Word), s.inReset = false → s.busy = false → WriteMakes s 0x010 c (issued s c)

/-- 60_exceptions.md R342: a command that names a primitive whose `CAP` bit is 0 is rejected with `E_PRIM`, whatever its
other fields, and changes the error record only. -/
def Obligations.AbsentPrimitivesAreRejected : Prop :=
  ∀ (s : State) (i : Instr) (p : Prim), s.inReset = false → s.busy = false → i.prim? = some p →
    s.cap.getLsbD p.code.toNat = false →
    WriteMakes s 0x010 (encode i) { s with err := true, ecode := .ePrim, ecmd := encode i }

/-- 10_state.md R39, R40 and 60_exceptions.md R340, R350: a well-formed command of the build is accepted when the tags it
needs match, and else rejected with `E_LAYOUT`, or with `E_MAT` when the layout matches. -/
def Obligations.TagsDecideAcceptance : Prop :=
  ∀ (s : State) (i : Instr), s.inReset = false → s.busy = false → i.wellFormed = true → i.builtIn s.primPresent = true →
    ((∀ p, layoutNeeded i = some p → s.layoutIs p = true) → (∀ p, materialNeeded i = some p → s.materialIs p = true) →
      WriteMakes s 0x010 (encode i) { s with pend := some (encode i) }) ∧
    (∀ p, layoutNeeded i = some p → s.layoutIs p = false →
      WriteMakes s 0x010 (encode i) { s with err := true, ecode := .eLayout, ecmd := encode i }) ∧
    (∀ p, layoutNeeded i = some p → s.layoutIs p = true → materialNeeded i = some p → s.materialIs p = false →
      WriteMakes s 0x010 (encode i) { s with err := true, ecode := .eMat, ecmd := encode i })

/-! ## Steps -/

/-- A step is the next turn of the agenda, or the engine's when none is left; and the engine's turn runs the command in
flight, decoded (60_exceptions.md R351). The agenda is the model's (log entry 1). -/
def Obligations.StepRunsTheDecodedCommand : Prop :=
  (∀ (s : State) (t : Turn) (rest : List Turn), s.agenda = t :: rest → step s = turn { s with agenda := rest } t) ∧
  (∀ s : State, s.agenda = [] → step s = turn s .engine) ∧
  (∀ (s : State) (c : Word) (i : Instr), s.inReset = false → s.pend = some c → decode s.primPresent c = .ok i →
    turn s .engine = exec i s) ∧
  (∀ s : State, s.pend = none → turn s .engine = .next s)

/-- 60_exceptions.md R376: no situation is refused by the engine and none leaves it stuck. That a bus error is an answer
recorded in a next state, not a fault that ends the run, is the model's choice (log entry 4). -/
def Obligations.EveryStepAnswersANextState : Prop :=
  ∀ s : State, ∃ t, step s = .next t

/-- 60_exceptions.md R344, R351: a command that the checks accepted completes in the engine's turn: `DONE` is set, `BUSY` is
0, and the error record is as it was. -/
def Obligations.AcceptedCommandsComplete : Prop :=
  ∀ (s : State) (c : Word), s.inReset = false → s.pend = some c → (checksOf s c).find? (fun check => check.1) = none →
    ∃ t, turn s .engine = .next t ∧ t.done = true ∧ t.busy = false ∧ t.err = s.err ∧ t.ecode = s.ecode ∧ t.ecmd = s.ecmd ∧
      t.ovr = s.ovr ∧ t.ctrl = s.ctrl

/-- 60_exceptions.md R352, 20_memory.md R61: the result of a command is the function of its inputs given by its rule, whatever
the hosts do between its issue and its completion. The agenda, which puts these turns in a row, is the model's (log entry 1). -/
def Obligations.HostCannotDisturbACommandInFlight : Prop :=
  ∀ (s : State) (i : Instr) (host : Nat) (between rest : List Turn),
    s.inReset = false → s.busy = false → (checksOf s (encode i)).find? (fun check => check.1) = none →
    s.agenda = .write host 0x010#9 4 (encode i) :: (between ++ .engine :: rest) → (∀ t ∈ between, Turn.isHost t = true) →
    ∃ t u, core.run (between.length + 2) s = .next t ∧ exec i s = .next u ∧
      t.w = u.w ∧ t.mem = u.mem ∧ t.mkey = u.mkey ∧ t.mprim = u.mprim ∧ t.mvalid = u.mvalid ∧ t.lprim = u.lprim ∧
      t.lvalid = u.lvalid ∧ t.ecode = u.ecode ∧ t.ecmd = u.ecmd ∧ t.done = true ∧ t.busy = false ∧ t.agenda = rest

/-- The invariant of Safety.lean holds at reset. -/
def Obligations.InvariantHoldsAtReset : Prop := State.reset.Inv

/-- Every step keeps the invariant: memory in canonical form and inside the buffers, the command in flight accepted, both
tags true of what they tag, the error record, and every item at its reset value while reset is asserted. That last clause,
`heldInReset`, is the model's choice (log entry 8): 70_reset_and_hazards.md R380 gives the values at release only. -/
def Obligations.EveryStepKeepsTheInvariant : Prop :=
  ∀ s t : State, s.Inv → step s = .next t → t.Inv

/-- 10_state.md R24: only commands write `STATE`: `TOINT`, `ROUNDS` and `CLEAR`, beside reset. -/
def Obligations.OnlyCommandsWriteTheStateWords : Prop :=
  ∀ s t : State, step s = .next t → t.w ≠ s.w →
    ResetsNow s ∨ ∃ i, CompletesNow s i ∧ (opField (encode i)).toNat ∈ [1, 2, 5]

/-- 20_memory.md R68: the round material changes only by `SCHED`, `CLEAR` or reset. -/
def Obligations.MaterialChangesOnlyBySchedClearReset : Prop :=
  ∀ s t : State, step s = .next t → ¬(t.mkey = s.mkey ∧ t.mprim = s.mprim ∧ t.mvalid = s.mvalid) →
    ResetsNow s ∨ ∃ i, CompletesNow s i ∧ (i = .clear ∨ ∃ p, scheduled i = some p ∧ t.mprim = p.code ∧ t.mvalid = true)

/-- 10_state.md R30, R39: the layout tag changes only by `TOINT`, `CLEAR` or reset. -/
def Obligations.LayoutTagChangesOnlyByTointClearReset : Prop :=
  ∀ s t : State, step s = .next t → ¬(t.lprim = s.lprim ∧ t.lvalid = s.lvalid) →
    ResetsNow s ∨ ∃ i, CompletesNow s i ∧ (i = .clear ∨ ∃ p, layoutGiven i = some p ∧ t.lprim = p.code ∧ t.lvalid = true)

/-- 10_state.md R26, R27: a byte of `DATA` or `KEY` changes only by a host write of its word while `BUSY` = 0, by `TOEXT` (the
first 4n bytes of `DATA`), by `CLEAR` or by reset. -/
def Obligations.BufferBytesChangeOnlyByTheirWriters : Prop :=
  ∀ (s t : State) (a : Nat), step s = .next t → t.mem.read a ≠ s.mem.read a →
    ResetsNow s ∨
    (∃ off v, WritesNow s off v ∧ s.busy = false ∧ 0x100 ≤ off ∧ off < 0x170 ∧ off % 4 = 0 ∧ off ≤ a ∧ a < off + 4) ∨
    ∃ i, CompletesNow s i ∧
      (i = .clear ∨ ∃ p, (opField (encode i)).toNat = 3 ∧ i.prim? = some p ∧ 0x100 ≤ a ∧ a < 0x100 + 4 * primWords p)

/-- 60_exceptions.md R343: `ECODE` and `ECMD` keep their values until the next rejection or reset, and a rejection records the
code of its first failing check and the whole word. -/
def Obligations.ErrorRecordChangesOnlyByRejectionOrReset : Prop :=
  ∀ s t : State, s.Inv → step s = .next t →
    (t.ecode = s.ecode ∧ t.ecmd = s.ecmd) ∨ ResetsNow s ∨
    ∃ c check, WritesNow s 0x010 c ∧ s.busy = false ∧ (checksOf s c).find? (fun check => check.1) = some check ∧
      t.ecode = check.2 ∧ t.ecmd = c ∧ t.err = true

/-- 10_state.md R23: `CAP` is `zext_32(PRIM_PRESENT)` and no step changes it. -/
def Obligations.CapIsConstant : Prop :=
  ∀ s t : State, step s = .next t → t.cap = s.cap ∧ t.cap.toNat = s.primPresent.toNat

/-! ## Reset -/

/-- 10_state.md R42: the value of every item after reset. -/
def Obligations.ResetHoldsTheSpecValues : Prop :=
  engineId = 0x0430AEAD#32 ∧ State.reset.cap = State.reset.primPresent.setWidth 32 ∧ (∀ k, (h : k < 16) → State.reset.w[k] = 0#32) ∧
    (∀ i, State.reset.data i = 0#8 ∧ State.reset.key i = 0#8) ∧ (∀ i, (h : i < 48) → State.reset.mkey[i] = 0#8) ∧
    State.reset.mprim = 0#4 ∧ State.reset.mvalid = false ∧ State.reset.lprim = 0#4 ∧ State.reset.lvalid = false ∧
    State.reset.ieDone = false ∧ State.reset.ieErr = false ∧ State.reset.busy = false ∧ State.reset.done = false ∧
    State.reset.err = false ∧ State.reset.ovr = false ∧ State.reset.ecode.code = 0#4 ∧ State.reset.ecmd = 0#32 ∧
    State.reset.pend = none ∧ State.reset.irq = false ∧ State.reset.status = 0#32

/-- 70_reset_and_hazards.md R380: while reset is asserted a read returns 0 and a write has no effect; after its release every
item holds the value of R42, whatever was in flight. -/
def Obligations.ResetInputResetsEverything : Prop :=
  (∀ (s : State) (off : Nat) (v : Word), s.inReset = true → off < 0x200 → off % 4 = 0 →
    ReadsAs s off 0#32 ∧ WriteMakes s off v s ∧ turn s .engine = .next s) ∧
  (∀ s : State, ∃ t, turn s .assertReset = .next t ∧ t.inReset = true ∧
    turn t .releaseReset = .next { State.reset with
      primPresent := s.primPresent
      agenda := s.agenda
      responses := s.responses
      draws := s.draws }) ∧
  (∀ s : State, s.inReset = true → turn s .releaseReset = .next { State.reset with
      primPresent := s.primPresent
      agenda := s.agenda
      responses := s.responses
      draws := s.draws })

/-! ## Host accesses -/

/-- 20_memory.md R52: a read returns the value the address map gives and changes no state. `DATA` and `STATE` are exact while
`BUSY` = 0, and the registers R63 lists and the reserved offsets at all times (R63; 92_eei_decisions.md D13). That `KEY` and
`CMD` read 0 while `BUSY` = 1 too is the model's reading (log entry 9). -/
def Obligations.ReadsReturnTheAddressMapValue : Prop :=
  ∀ s : State, s.inReset = false →
    ReadsAs s 0x000 0x0430AEAD#32 ∧ ReadsAs s 0x004 (BitVec.ofNat 32 s.primPresent.toNat) ∧
    ReadsAs s 0x008 (BitVec.ofNat 32 (2 * s.ieErr.toNat + s.ieDone.toNat)) ∧ ReadsAs s 0x00C s.status ∧
    ReadsAs s 0x010 0#32 ∧ ReadsAs s 0x014 s.ecmd ∧ (∀ off, reservedOffset off → ReadsAs s off 0#32) ∧
    (∀ j, j < 12 → ReadsAs s (0x140 + 4 * j) 0#32) ∧
    (s.busy = false →
      (∀ j, j < 16 → ReadsAs s (0x100 + 4 * j)
        (le32 (s.data (4 * j)) (s.data (4 * j + 1)) (s.data (4 * j + 2)) (s.data (4 * j + 3)))) ∧
      ∀ k, (h : k < 16) → ReadsAs s (0x180 + 4 * k) s.w[k])

/-- 20_memory.md R63 with log entry 3: while `BUSY` = 1 a read of `DATA` or `STATE` answers a free value, a new one each time,
and changes nothing of the engine. The counter of free values is the model's. -/
def Obligations.BusyReadsAnswerFreeValues : Prop :=
  ∀ (s : State) (host off : Nat), s.inReset = false → s.busy = true → off % 4 = 0 →
    ((0x100 ≤ off ∧ off < 0x140) ∨ (0x180 ≤ off ∧ off < 0x1C0)) →
    turn s (.read host (BitVec.ofNat 9 off) 4) =
      .next { s with responses := ⟨host, .freeData (Config.freeRead s.draws)⟩ :: s.responses, draws := s.draws + 1 }

/-- 20_memory.md R55: reserved offsets read as 0 and ignore writes, with no error; and writes to the read-only offsets `ID`,
`CAP`, `ECMD` and `STATE` are ignored (R53). -/
def Obligations.ReservedAndReadOnlyOffsetsIgnoreWrites : Prop :=
  ∀ (s : State) (off : Nat) (v : Word), s.inReset = false →
    (reservedOffset off → ReadsAs s off 0#32 ∧ WriteMakes s off v s) ∧
    ((off ∈ [0x000, 0x004, 0x014] ∨ (off % 4 = 0 ∧ 0x180 ≤ off ∧ off < 0x1C0)) → WriteMakes s off v s)

/-- 20_memory.md R51: the byte lanes of the byte windows are little-endian. A write of a `DATA` or `KEY` word while `BUSY` = 0
stores its four bytes, lowest first, and no other byte; a read of a `DATA` word is `LE32` of its bytes, so it gives back what
was written; a read of a `KEY` word gives 0. -/
def Obligations.BufferWordsAreLittleEndian : Prop :=
  ∀ (s : State) (j : Nat) (v : Word), s.inReset = false → s.busy = false → s.mem.wf = true →
    (j < 16 → ReadsAs s (0x100 + 4 * j)
      (le32 (s.data (4 * j)) (s.data (4 * j + 1)) (s.data (4 * j + 2)) (s.data (4 * j + 3)))) ∧
    (j < 16 → ∃ m : Memory, WriteMakes s (0x100 + 4 * j) v { s with mem := m } ∧
      (∀ t, t < 4 → m.read (0x100 + 4 * j + t) = v.extractLsb' (8 * t) 8) ∧
      (∀ a, (a < 0x100 + 4 * j ∨ 0x104 + 4 * j ≤ a) → m.read a = s.mem.read a) ∧
      ReadsAs { s with mem := m } (0x100 + 4 * j) v) ∧
    (j < 12 → ∃ m : Memory, WriteMakes s (0x140 + 4 * j) v { s with mem := m } ∧
      (∀ t, t < 4 → m.read (0x140 + 4 * j + t) = v.extractLsb' (8 * t) 8) ∧
      (∀ a, (a < 0x140 + 4 * j ∨ 0x144 + 4 * j ≤ a) → m.read a = s.mem.read a) ∧
      ReadsAs { s with mem := m } (0x140 + 4 * j) 0#32)

/-- 70_reset_and_hazards.md R384: while `BUSY` = 1 a write to `CMD`, `DATA` or `KEY` is dropped and sets `OVR`; writes to `CTRL`
and `STATUS` are performed; other writes are ignored and set nothing. -/
def Obligations.WritesWhileBusyAreDropped : Prop :=
  ∀ (s : State) (off : Nat) (v : Word), s.inReset = false → s.busy = true → off < 0x200 → off % 4 = 0 →
    ((off = 0x010 ∨ (0x100 ≤ off ∧ off < 0x170)) → WriteMakes s off v { s with ovr := true }) ∧
    (off = 0x008 → WriteMakes s off v { s with ieDone := v.getLsbD 0, ieErr := v.getLsbD 1 }) ∧
    (off = 0x00C → WriteMakes s off v
      { s with done := s.done && !v.getLsbD 1, err := s.err && !v.getLsbD 2, ovr := s.ovr && !v.getLsbD 3 }) ∧
    (¬(off = 0x010 ∨ (0x100 ≤ off ∧ off < 0x170) ∨ off = 0x008 ∨ off = 0x00C) → WriteMakes s off v s)

/-- 10_state.md R31: a write to `STATUS` clears `DONE`, `ERR`, `OVR` where its bits 1, 2, 3 are 1, and does nothing else,
whether or not `BUSY` = 1. -/
def Obligations.StatusWritesClearOnlyTheirFlags : Prop :=
  ∀ (s : State) (v : Word), s.inReset = false →
    WriteMakes s 0x00C v { s with
      done := if v.getLsbD 1 then false else s.done
      err := if v.getLsbD 2 then false else s.err
      ovr := if v.getLsbD 3 then false else s.ovr }

/-- 10_state.md R30: where each field of `STATUS` stands, reserved bits 0, as a number. -/
def Obligations.StatusFieldsStandWhereTheyShould : Prop :=
  ∀ s : State, s.status.toNat =
    s.busy.toNat + 2 * s.done.toNat + 4 * s.err.toNat + 8 * s.ovr.toNat + 2 ^ 8 * s.ecode.code.toNat +
      2 ^ 16 * s.lprim.toNat + 2 ^ 20 * s.lvalid.toNat + 2 ^ 24 * s.mprim.toNat + 2 ^ 28 * s.mvalid.toNat

/-- 10_state.md R29: `CTRL` holds the two enables: what is written is read back in bits 0 and 1, the others read as 0, the
enables gate `IRQ`, whether or not `BUSY` = 1, and both are 0 at reset. -/
def Obligations.CtrlHoldsTheEnables : Prop :=
  (∀ (s : State) (v : Word), s.inReset = false →
    ∃ t, WriteMakes s 0x008 v t ∧ t = { s with ieDone := v.getLsbD 0, ieErr := v.getLsbD 1 } ∧
      ReadsAs t 0x008 (v &&& 3#32) ∧ t.irq = ((s.done && v.getLsbD 0) || ((s.err || s.ovr) && v.getLsbD 1))) ∧
  State.reset.ctrl = 0#32

/-- 10_state.md R35: `IRQ` is a function of the flags and their enables, and 0 after reset. -/
def Obligations.IrqIsTheEnabledFlags : Prop :=
  (∀ s : State, s.irq = true ↔ (s.done = true ∧ s.ieDone = true) ∨ ((s.err = true ∨ s.ovr = true) ∧ s.ieErr = true)) ∧
  State.reset.irq = false

/-- 20_memory.md R56: an access that is not 32 bits wide, or whose offset is not a multiple of 4, gets an error response,
changes no engine state, and a read returns 0. The record of the responses is the model's (log entry 4). -/
def Obligations.IllegalAccessesChangeNothing : Prop :=
  ∀ (s : State) (host : Nat) (off : BitVec 9) (bytes : Nat) (v : Word), s.inReset = false → (bytes ≠ 4 ∨ off.toNat % 4 ≠ 0) →
    turn s (.read host off bytes) = .next { s with responses := ⟨host, .readError .busError 0#32⟩ :: s.responses } ∧
    turn s (.write host off bytes v) = .next { s with responses := ⟨host, .writeError .busError⟩ :: s.responses }

/-! ## Control and layout commands -/

/-- 40_control.md R110: `NOP` has no effect but completion; its word is 0, and any other word with OP = 0 is an
`E_FIELD`. -/
def Obligations.NopOnlyCompletes : Prop :=
  (∀ s : State, exec .nop s = .next { s with done := true, pend := none }) ∧ encode .nop = 0x00000000#32 ∧
    ∀ (cap : Byte) (c : Word), opField c = 0#4 → c ≠ 0x00000000#32 → decode cap c = .error .eField

/-- 40_control.md R111: `CLEAR` zeroes words, buffers, material and both tags, and nothing else; then it completes. Its word is
1, and any other word with OP = 1 is an `E_FIELD`. -/
def Obligations.ClearZeroesWordsBuffersMaterialTags : Prop :=
  (encode .clear = 0x00000001#32 ∧
    ∀ (cap : Byte) (c : Word), opField c = 1#4 → c ≠ 0x00000001#32 → decode cap c = .error .eField) ∧
  ∀ s : State, ∃ (w : Words) (m : Memory) (k : Material),
    exec .clear s = .next { s with
      w := w
      mem := m
      mkey := k
      lprim := 0#4
      lvalid := false
      mprim := 0#4
      mvalid := false
      done := true
      pend := none } ∧
    (∀ i, (h : i < 16) → w[i] = 0#32) ∧ (∀ i, i < 64 → m.read (0x100 + i) = 0#8) ∧
    (∀ i, i < 48 → m.read (0x140 + i) = 0#8) ∧ ∀ i, (h : i < 48) → k[i] = 0#8

/-- 40_control.md R112: `SCHED.p` copies `KEY` into `MKEY` and sets the material tag, nothing else; then it completes. -/
def Obligations.SchedCopiesTheKey : Prop :=
  ∀ s : State, ∀ q ∈ [(Instr.schedGift, Prim.gift), (.schedSkinny, .skinny), (.schedJambu, .jambu)],
    s.present q.2 = true →
    ∃ k : Material, exec q.1 s = .next { s with
        mkey := k
        mprim := q.2.code
        mvalid := true
        done := true
        pend := none } ∧
      ∀ i, (h : i < 48) → k[i] = s.mem.read (0x140 + i)

/-- 41_layout.md R131 with R136, R140, R142, R144, R146, R148: `TOINT` of the six little-endian layouts. -/
def Obligations.TointLittleEndianLayouts : Prop :=
  ∀ s : State, ∀ q ∈ [(Instr.tointSkinny, Prim.skinny, 4), (.tointGrain, .grain, 16), (.tointSparkle, .sparkle, 16),
      (.tointJambu, .jambu, 4), (.tointPhoton, .photon, 8), (.tointXoodoo, .xoodoo, 12)],
    s.present q.2.1 = true →
    ∃ w : Words, exec q.1 s = .next { s with
        w := w
        lprim := q.2.1.code
        lvalid := true
        done := true
        pend := none } ∧
      ∀ k, (h : k < 16) → w[k] =
        if k < q.2.2 then le32 (s.data (4 * k)) (s.data (4 * k + 1)) (s.data (4 * k + 2)) (s.data (4 * k + 3)) else 0#32

/-- 41_layout.md R131 with R134, R138: `TOINT.GIFT` loads big-endian words, `TOINT.ASCON` big-endian doublewords, low word
first. -/
def Obligations.TointBigEndianLayouts : Prop :=
  ∀ s : State,
    (s.present .gift = true →
      ∃ w : Words, exec .tointGift s = .next { s with
          w := w
          lprim := 0#4
          lvalid := true
          done := true
          pend := none } ∧
        ∀ k, (h : k < 16) → w[k] =
          if k < 4 then be32 (s.data (4 * k)) (s.data (4 * k + 1)) (s.data (4 * k + 2)) (s.data (4 * k + 3)) else 0#32) ∧
    (s.present .ascon = true →
      ∃ w : Words, exec .tointAscon s = .next { s with
          w := w
          lprim := 2#4
          lvalid := true
          done := true
          pend := none } ∧
        (∀ i, (h : i < 5) → (w[2 * i + 1] ++ w[2 * i] : BitVec 64) =
          be32 (s.data (8 * i)) (s.data (8 * i + 1)) (s.data (8 * i + 2)) (s.data (8 * i + 3)) ++
            be32 (s.data (8 * i + 4)) (s.data (8 * i + 5)) (s.data (8 * i + 6)) (s.data (8 * i + 7))) ∧
        ∀ k, (h : k < 16) → 10 ≤ k → w[k] = 0#32)

/-- 41_layout.md R132 with R137, R141, R143, R145, R147, R149: `TOEXT` of the six little-endian layouts stores byte i of the
words at `DATA[i]` and changes no other byte. -/
def Obligations.ToextLittleEndianLayouts : Prop :=
  ∀ s : State, s.mem.wf = true →
    ∀ q ∈ [(Instr.toextSkinny, Prim.skinny, 4), (.toextGrain, .grain, 16), (.toextSparkle, .sparkle, 16),
      (.toextJambu, .jambu, 4), (.toextPhoton, .photon, 8), (.toextXoodoo, .xoodoo, 12)],
    s.present q.2.1 = true → s.layoutIs q.2.1 = true →
    ∃ m : Memory, exec q.1 s = .next { s with mem := m, done := true, pend := none } ∧
      (∀ i, i < 4 * q.2.2 → m.read (dataBase + i) = ((s.w[i / 4]?).getD 0#32).extractLsb' (8 * (i % 4)) 8) ∧
      ∀ a, (a < dataBase ∨ dataBase + 4 * q.2.2 ≤ a) → m.read a = s.mem.read a

/-- 41_layout.md R132 with R135, R139: `TOEXT.GIFT` stores big-endian words, `TOEXT.ASCON` big-endian doublewords, and no other
byte changes. -/
def Obligations.ToextBigEndianLayouts : Prop :=
  ∀ s : State, s.mem.wf = true →
    (s.present .gift = true → s.layoutIs .gift = true →
      ∃ m : Memory, exec .toextGift s = .next { s with mem := m, done := true, pend := none } ∧
        (∀ i, i < 16 → m.read (dataBase + i) = ((s.w[i / 4]?).getD 0#32).extractLsb' (8 * (3 - i % 4)) 8) ∧
        ∀ a, (a < dataBase ∨ dataBase + 16 ≤ a) → m.read a = s.mem.read a) ∧
    (s.present .ascon = true → s.layoutIs .ascon = true →
      ∃ m : Memory, exec .toextAscon s = .next { s with mem := m, done := true, pend := none } ∧
        (∀ i j, (hi : i < 5) → j < 8 → m.read (dataBase + 8 * i + j) =
          (s.w[2 * i + 1] ++ s.w[2 * i] : BitVec 64).extractLsb' (8 * (7 - j)) 8) ∧
        ∀ a, (a < dataBase ∨ dataBase + 40 ≤ a) → m.read a = s.mem.read a)

/-- 41_layout.md R133: `TOINT.p` then `TOEXT.p` leaves `DATA` as it was; `TOEXT.p` then `TOINT.p` leaves p's words. -/
def Obligations.LayoutRoundTrip : Prop :=
  ∀ s : State, s.mem.wf = true →
    ∀ q ∈ [(Instr.tointGift, Instr.toextGift, Prim.gift), (.tointSkinny, .toextSkinny, .skinny),
      (.tointAscon, .toextAscon, .ascon), (.tointGrain, .toextGrain, .grain), (.tointSparkle, .toextSparkle, .sparkle),
      (.tointJambu, .toextJambu, .jambu), (.tointPhoton, .toextPhoton, .photon), (.tointXoodoo, .toextXoodoo, .xoodoo)],
    s.present q.2.2 = true →
    (∃ t u, exec q.1 s = .next t ∧ exec q.2.1 t = .next u ∧ u.mem = s.mem) ∧
    (s.layoutIs q.2.2 = true →
      ∃ t u, exec q.2.1 s = .next t ∧ exec q.1 t = .next u ∧
        ∀ k, (h : k < 16) → k < primWords q.2.2 → u.w[k] = s.w[k])

/-! ## ROUNDS -/

/-- 42_gift.md R160 to R167: `ROUNDS.GIFT` runs rounds start … start+count−1, each SubCells by the table of GS, PermBits by its
formula and AddRoundKey with the key words and constant of its index; nothing else changes. -/
def Obligations.RoundsGiftRunsItsRounds : Prop :=
  ∀ (s : State) (start count : Byte), s.present .gift = true → start.toNat + count.toNat ≤ 40 →
    s.layoutIs .gift = true → s.materialIs .gift = true →
    ∃ (κ : Nat → Nat → Half) (w : Words), GiftKeys s.mkey κ ∧
      RunsRounds (fun r => GiftRound (κ r 5 ++ κ r 4) (κ r 1 ++ κ r 0) (constantTable.getD r 0)) start.toNat count.toNat
        s.w w ∧
      exec (.roundsGift start count) s = .next { s with w := w, done := true, pend := none }

/-- 43_skinny.md R190 to R198: `ROUNDS.SKINNY` runs rounds start … start+count−1 with TK1 from `KEY`, TK2 and TK3 from `MKEY`,
each round with the tweakey and constant of its index; nothing else changes. -/
def Obligations.RoundsSkinnyRunsItsRounds : Prop :=
  ∀ (s : State) (start count : Byte), s.present .skinny = true → start.toNat + count.toNat ≤ 40 →
    s.layoutIs .skinny = true → s.materialIs .skinny = true →
    ∃ (tk : Nat → Nat → Nat → Byte) (w : Words), SkinnyTweakeys (fun i => s.mem.read (0x140 + i)) s.mkey tk ∧
      RunsRounds (fun r => SkinnyRound (tk r) (constantTable.getD r 0)) start.toNat count.toNat s.w w ∧
      exec (.roundsSkinny start count) s = .next { s with w := w, done := true, pend := none }

/-- 44_ascon.md R220 to R224: `ROUNDS.ASCON` runs rounds start … start+count−1, each the constant of its index, the S-box by its
table and the linear layer; nothing else changes. -/
def Obligations.RoundsAsconRunsItsRounds : Prop :=
  ∀ (s : State) (start count : Byte), s.present .ascon = true → start.toNat + count.toNat ≤ 12 →
    s.layoutIs .ascon = true →
    ∃ w : Words, RunsRounds AsconRound start.toNat count.toNat s.w w ∧
      exec (.roundsAscon start count) s = .next { s with w := w, done := true, pend := none }

/-- 45_grain.md R240 to R244: `ROUNDS.GRAIN` clocks the registers n times per output word; bit q of the output area is
pre-output bit q, as far as the command reaches, and every other bit of the area is as it was. -/
def Obligations.RoundsGrainGeneratesItsSequence : Prop :=
  ∀ (s : State) (count : Byte) (width : GrainWidth) (mode : GrainMode) (n : Nat), s.present .grain = true →
    (width = .w32 ∧ n = 32 ∧ count.toNat ≤ 8) ∨ (width = .w16 ∧ n = 16 ∧ count.toNat ≤ 16) → s.layoutIs .grain = true →
    ∃ (b l : Nat → Bool) (w : Words), GrainSequences mode (n * count.toNat) s.w b l ∧
      (∀ i, i < 128 → areaBit w 0 i = b (n * count.toNat + i) ∧ areaBit w 4 i = l (n * count.toNat + i)) ∧
      (∀ q, q < 256 → areaBit w 8 q = if q < n * count.toNat then grainYAt b l q else areaBit s.w 8 q) ∧
      exec (.roundsGrain count width mode) s = .next { s with w := w, done := true, pend := none }

/-- 46_sparkle.md R260, R261, R265: `ROUNDS.SPARKLE` runs steps start … start+count−1 on its first B branches; nothing else
changes, and no range is checked. -/
def Obligations.RoundsSparkleRunsItsSteps : Prop :=
  ∀ (s : State) (start count : Byte) (b : Branches), s.present .sparkle = true → s.layoutIs .sparkle = true →
    ∃ w : Words, RunsRounds (SparkleStep (b.number / 2)) start.toNat count.toNat s.w w ∧
      exec (.roundsSparkle start count b) s = .next { s with w := w, done := true, pend := none }

/-- 47_jambu.md R280 to R282: `ROUNDS.JAMBU` runs count blocks of 128 steps under the key bits of `MKEY[0..15]`; nothing else
changes. -/
def Obligations.RoundsJambuRunsItsSequence : Prop :=
  ∀ (s : State) (count : Byte), s.present .jambu = true → s.layoutIs .jambu = true → s.materialIs .jambu = true →
    ∃ (x : Nat → Bool) (w : Words),
      JambuSequence (fun i => ((s.mkey[i / 8]?).getD 0#8).getLsbD (i % 8)) (128 * count.toNat) s.w x ∧
      (∀ i, i < 128 → areaBit w 0 i = x (128 * count.toNat + i)) ∧ SameFrom 4 s.w w ∧
      exec (.roundsJambu count) s = .next { s with w := w, done := true, pend := none }

/-- 48_photon.md R300 to R305: `ROUNDS.PHOTON` runs rounds start … start+count−1, MixColumnSerial as the eighth power of the
serial matrix; nothing else changes. -/
def Obligations.RoundsPhotonRunsItsRounds : Prop :=
  ∀ (s : State) (start count : Byte), s.present .photon = true → start.toNat + count.toNat ≤ 12 →
    s.layoutIs .photon = true →
    ∃ w : Words, RunsRounds PhotonRound start.toNat count.toNat s.w w ∧
      exec (.roundsPhoton start count) s = .next { s with w := w, done := true, pend := none }

/-- 49_xoodoo.md R320 to R326: `ROUNDS.XOODOO` runs rounds start … start+count−1; nothing else changes. -/
def Obligations.RoundsXoodooRunsItsRounds : Prop :=
  ∀ (s : State) (start count : Byte), s.present .xoodoo = true → start.toNat + count.toNat ≤ 12 →
    s.layoutIs .xoodoo = true →
    ∃ w : Words, RunsRounds XoodooRound start.toNat count.toNat s.w w ∧
      exec (.roundsXoodoo start count) s = .next { s with w := w, done := true, pend := none }

/-- 30_encoding.md R88: COUNT = 0 leaves `STATE` unchanged, and the command still completes. -/
def Obligations.ZeroCountOnlyCompletes : Prop :=
  ∀ (s : State) (start : Byte) (width : GrainWidth) (mode : GrainMode) (b : Branches),
    (start.toNat ≤ 40 → s.present .gift = true → s.layoutIs .gift = true → s.materialIs .gift = true →
      exec (.roundsGift start 0#8) s = .next { s with done := true, pend := none }) ∧
    (start.toNat ≤ 40 → s.present .skinny = true → s.layoutIs .skinny = true → s.materialIs .skinny = true →
      exec (.roundsSkinny start 0#8) s = .next { s with done := true, pend := none }) ∧
    (start.toNat ≤ 12 → s.present .ascon = true → s.layoutIs .ascon = true →
      exec (.roundsAscon start 0#8) s = .next { s with done := true, pend := none }) ∧
    (s.present .grain = true → s.layoutIs .grain = true →
      exec (.roundsGrain 0#8 width mode) s = .next { s with done := true, pend := none }) ∧
    (s.present .sparkle = true → s.layoutIs .sparkle = true →
      exec (.roundsSparkle start 0#8 b) s = .next { s with done := true, pend := none }) ∧
    (s.present .jambu = true → s.layoutIs .jambu = true → s.materialIs .jambu = true →
      exec (.roundsJambu 0#8) s = .next { s with done := true, pend := none }) ∧
    (start.toNat ≤ 12 → s.present .photon = true → s.layoutIs .photon = true →
      exec (.roundsPhoton start 0#8) s = .next { s with done := true, pend := none }) ∧
    (start.toNat ≤ 12 → s.present .xoodoo = true → s.layoutIs .xoodoo = true →
      exec (.roundsXoodoo start 0#8) s = .next { s with done := true, pend := none })

/-- 44_ascon.md R225, 46_sparkle.md R267, 48_photon.md R307, 49_xoodoo.md R327: rounds a … b−1 and then b … c−1 are rounds
a … c−1. -/
def Obligations.PermutationRoundsCompose : Prop :=
  ∀ (s : State) (a b c : Nat) (br : Branches), a ≤ b → b ≤ c →
    let byte := BitVec.ofNat 8
    (c ≤ 12 → s.present .ascon = true → s.layoutIs .ascon = true →
      ∃ t, exec (.roundsAscon (byte a) (byte (b - a))) s = .next t ∧
        exec (.roundsAscon (byte b) (byte (c - b))) t = exec (.roundsAscon (byte a) (byte (c - a))) s) ∧
    (c ≤ 12 → s.present .photon = true → s.layoutIs .photon = true →
      ∃ t, exec (.roundsPhoton (byte a) (byte (b - a))) s = .next t ∧
        exec (.roundsPhoton (byte b) (byte (c - b))) t = exec (.roundsPhoton (byte a) (byte (c - a))) s) ∧
    (c ≤ 12 → s.present .xoodoo = true → s.layoutIs .xoodoo = true →
      ∃ t, exec (.roundsXoodoo (byte a) (byte (b - a))) s = .next t ∧
        exec (.roundsXoodoo (byte b) (byte (c - b))) t = exec (.roundsXoodoo (byte a) (byte (c - a))) s) ∧
    (b ≤ 255 → c - a ≤ 255 → s.present .sparkle = true → s.layoutIs .sparkle = true →
      ∃ t, exec (.roundsSparkle (byte a) (byte (b - a)) br) s = .next t ∧
        exec (.roundsSparkle (byte b) (byte (c - b)) br) t = exec (.roundsSparkle (byte a) (byte (c - a)) br) s)

/-- 42_gift.md R169, 43_skinny.md R199, 47_jambu.md R284: composition of the keyed primitives, under the same material and
tweak. -/
def Obligations.KeyedRoundsCompose : Prop :=
  ∀ (s : State) (a b c : Nat), a ≤ b → b ≤ c →
    let byte := BitVec.ofNat 8
    (c ≤ 40 → s.present .gift = true → s.layoutIs .gift = true → s.materialIs .gift = true →
      ∃ t, exec (.roundsGift (byte a) (byte (b - a))) s = .next t ∧
        exec (.roundsGift (byte b) (byte (c - b))) t = exec (.roundsGift (byte a) (byte (c - a))) s) ∧
    (c ≤ 40 → s.present .skinny = true → s.layoutIs .skinny = true → s.materialIs .skinny = true →
      ∃ t, exec (.roundsSkinny (byte a) (byte (b - a))) s = .next t ∧
        exec (.roundsSkinny (byte b) (byte (c - b))) t = exec (.roundsSkinny (byte a) (byte (c - a))) s) ∧
    (c ≤ 255 → s.present .jambu = true → s.layoutIs .jambu = true → s.materialIs .jambu = true →
      ∃ t, exec (.roundsJambu (byte a)) s = .next t ∧
        exec (.roundsJambu (byte (c - a))) t = exec (.roundsJambu (byte c)) s)

/-- 45_grain.md R246: a then c words leave the registers of a+c words; the second command's words continue the first's, from
slot 0; only the output area differs. -/
def Obligations.GrainCommandsContinue : Prop :=
  ∀ (s : State) (width : GrainWidth) (mode : GrainMode) (a c n : Nat), s.present .grain = true →
    (width = .w32 ∧ n = 32 ∧ a + c ≤ 8) ∨ (width = .w16 ∧ n = 16 ∧ a + c ≤ 16) → s.layoutIs .grain = true →
    ∃ t u v, exec (.roundsGrain (BitVec.ofNat 8 a) width mode) s = .next t ∧
      exec (.roundsGrain (BitVec.ofNat 8 c) width mode) t = .next u ∧
      exec (.roundsGrain (BitVec.ofNat 8 (a + c)) width mode) s = .next v ∧
      u = { v with w := u.w } ∧ (∀ k, (h : k < 8) → u.w[k] = v.w[k]) ∧
      ∀ q, q < n * c → areaBit u.w 8 q = areaBit v.w 8 (n * a + q)

/-- 45_grain.md R245: the word width changes only the packing: 2k words of 16 bits are k words of 32 bits, with the same
registers and the same output area. -/
def Obligations.GrainWidthChangesOnlyThePacking : Prop :=
  ∀ (s : State) (mode : GrainMode) (k : Nat), s.present .grain = true → k ≤ 8 → s.layoutIs .grain = true →
    ∃ t, exec (.roundsGrain (BitVec.ofNat 8 k) .w32 mode) s = .next t ∧
      exec (.roundsGrain (BitVec.ofNat 8 (2 * k)) .w16 mode) s = .next t

/-- 47_jambu.md R283: a block of 128 steps equals four 32-step word updates under the key words, in order. -/
def Obligations.JambuBlockIsFourWordUpdates : Prop :=
  ∀ s : State, s.present .jambu = true → s.layoutIs .jambu = true → s.materialIs .jambu = true →
    let k : Nat → Word := fun j =>
      le32 ((s.mkey[4 * j]?).getD 0#8) ((s.mkey[4 * j + 1]?).getD 0#8) ((s.mkey[4 * j + 2]?).getD 0#8)
        ((s.mkey[4 * j + 3]?).getD 0#8)
    ∃ w : Words, exec (.roundsJambu 1#8) s = .next { s with w := w, done := true, pend := none } ∧ SameFrom 4 s.w w ∧
      (w[0], w[1], w[2], w[3]) =
        jambuWordUpdate (k 3) (jambuWordUpdate (k 2) (jambuWordUpdate (k 1) (jambuWordUpdate (k 0)
          (s.w[0], s.w[1], s.w[2], s.w[3]))))

/-- 43_skinny.md R198: PT has order 16, so TK1 of round r+16 is TK1 of round r. -/
def Obligations.SkinnyTweakOneHasPeriodSixteen : Prop :=
  ∀ (tk : SkinnyTweakey) (r : Nat), (skinnyTweakeyAt tk (r + 16)).t1 = (skinnyTweakeyAt tk r).t1

/-- The fixed tables: the words each primitive uses (10_state.md R25), the round constants (42_gift.md R167, 43_skinny.md R194,
44_ascon.md R222, 46_sparkle.md R262, 48_photon.md R302, 49_xoodoo.md R324), S4 (48_photon.md R303), SR and PT (43_skinny.md R196,
R198), and that the two forms of SB8 agree on all 256 inputs (43_skinny.md R193). -/
def Obligations.FixedTablesAgree : Prop :=
  [Prim.gift, .skinny, .ascon, .grain, .sparkle, .jambu, .photon, .xoodoo].map primWords = [4, 4, 10, 16, 16, 4, 8, 12] ∧
    (List.range 40).map (fun r => (giftConstant r).toNat) = constantTable ∧
    (List.range 40).map (fun r => (skinnyConstant r).toNat) = constantTable ∧
    (List.range 12).map (fun r => (asconConstant r).toNat) = asconConstantTable ∧
    (List.range 8).map (fun i => (sparkleConstant i).toNat) =
      [0xB7E15162, 0xBF715880, 0x38B4DA56, 0x324E7738, 0xBB1185EB, 0x4F7C7B57, 0xCFBFA1C8, 0xC2B3293D] ∧
    (List.range 12).map (fun t => (photonRoundConstant t).toNat) = [1, 3, 7, 14, 13, 11, 6, 12, 9, 2, 5, 10] ∧
    (List.range 8).map (fun i => (photonRowConstant i).toNat) = [0, 1, 3, 7, 15, 14, 12, 8] ∧
    (List.range 12).map (fun r => (xoodooConstant r).toNat) =
      [0x058, 0x038, 0x3C0, 0x0D0, 0x120, 0x014, 0x060, 0x02C, 0x380, 0x0F0, 0x1A0, 0x012] ∧
    skinnyShiftTable = [0, 1, 2, 3, 7, 4, 5, 6, 10, 11, 8, 9, 13, 14, 15, 12] ∧
    skinnyTweakeyTable = [9, 15, 8, 13, 10, 14, 12, 11, 0, 1, 2, 3, 4, 5, 6, 7] ∧
    (List.range 16).map (fun v => (photonSbox (BitVec.ofNat 4 v)).toNat) =
      [0xC, 0x5, 0x6, 0xB, 0x9, 0x0, 0xA, 0xD, 0x3, 0xE, 0xF, 0x8, 0x4, 0x7, 0x1, 0x2] ∧
    ∀ x : Byte, bitsOfByte (skinnySbox x) = skinnyCircuit (bitsOfByte x)

/-- 46_sparkle.md R263, R264: Alzette's four micro-steps in order, and `ELL` bit by bit: the shift inside it is logical. -/
def Obligations.AlzetteAndEllFollowTheirFormulas : Prop :=
  (∀ x y c : Word,
    let x1 := x + y.rotateRight 31
    let y1 := y ^^^ x1.rotateRight 24
    let x2 := (x1 ^^^ c) + y1.rotateRight 17
    let y2 := y1 ^^^ x2.rotateRight 17
    let x3 := (x2 ^^^ c) + y2
    let y3 := y2 ^^^ x3.rotateRight 31
    let x4 := (x3 ^^^ c) + y3.rotateRight 24
    let y4 := y3 ^^^ x4.rotateRight 16
    alzette c (x, y) = (x4 ^^^ c, y4)) ∧
  ∀ (v : Word) (i : Nat), i < 32 →
    (sparkleEll v).getLsbD i = if i < 16 then v.getLsbD (i + 16) ^^ v.getLsbD i else v.getLsbD (i - 16)

/-- 48_photon.md R305: ⊗ is the product of polynomials modulo 0x13, and the matrix M is the eighth power of the serial matrix:
column k of M is what eight serial steps make of the k-th unit column. -/
def Obligations.PhotonMatrixIsTheEighthSerialPower : Prop :=
  (∀ a b : Nibble, gfMul a b = reduced (carrylessProduct a b)) ∧
    ∀ i k : Fin 8, photonM i.val k.val = photonSerial 8 (fun j => if j = k.val then 1#4 else 0#4) i.val

/-! ## Runs -/

/-- 70_reset_and_hazards.md R395. From every state that meets the invariant, the run of a host's program ends: within one step
more than there are turns to come, at the first state where `BUSY` = 0 and none of its accesses is to come, and its observation
is the tuple of every item of 10_state.md R21 there with the values of that host's reads. And from every state the observation
depends neither on the free values that reads while `BUSY` = 1 drew (20_memory.md R63) nor on other hosts' reads. The agenda and the
form of the observation are the model's (log entries 1 and 13). -/
def Obligations.RunsEndInTheirObservation : Prop :=
  ∀ (s : State) (host : Nat),
    (s.Inv → ∃ n t o, n ≤ s.agenda.length + 1 ∧ core.run n { s with responses := [] } = .next t ∧ RunEnds host t ∧
      (∀ m u, m < n → core.run m { s with responses := [] } = .next u → ¬RunEnds host u) ∧
      s.runObservation host = some o ∧ Observes host t o) ∧
    (∀ d : Nat, ({ s with draws := d } : State).runObservation host = s.runObservation host) ∧
    ({ s with agenda := s.agenda.filter fun t => !t.isReadOfAnother host } : State).runObservation host = s.runObservation host
end

