-- ==== Sys2Proof/Laws/Decode.lean ====
section
/-! SUPPORT. The fields of an encoded word, the primitive codes, and that a word is rebuilt from its fields. -/

namespace Sys2Proof

/-- The bits of a command word. -/
theorem commandWord_getLsbD (op prim : Nibble) (start count : Byte) (var : Nibble) (i : Nat) :
    (commandWord op prim start count var).getLsbD i =
      if i < 4 then op.getLsbD i
      else if i < 8 then prim.getLsbD (i - 4)
      else if i < 16 then start.getLsbD (i - 8)
      else if i < 24 then count.getLsbD (i - 16)
      else if i < 28 then var.getLsbD (i - 24)
      else false := by
  have h : (0#4 ++ var ++ count ++ start ++ prim ++ op : BitVec (4 + 4 + 8 + 8 + 4 + 4)).getLsbD i = _ :=
    BitVec.getLsbD_append
  refine h.trans ?_
  simp only [BitVec.getLsbD_append, Nat.sub_sub, BitVec.getLsbD_zero]
  repeat' split
  all_goals first | rfl | omega

section fields
variable (op prim : Nibble) (start count : Byte) (var : Nibble)

@[simp] theorem opField_commandWord : opField (commandWord op prim start count var) = op := by
  refine BitVec.eq_of_getLsbD_eq fun i hi => ?_
  rw [opField, BitVec.getLsbD_extractLsb', commandWord_getLsbD, decide_eq_true hi, Bool.true_and, if_pos (by omega)]
  congr 1; omega

@[simp] theorem primField_commandWord : primField (commandWord op prim start count var) = prim := by
  refine BitVec.eq_of_getLsbD_eq fun i hi => ?_
  rw [primField, BitVec.getLsbD_extractLsb', commandWord_getLsbD, decide_eq_true hi, Bool.true_and, if_neg (by omega),
    if_pos (by omega)]
  congr 1; omega

@[simp] theorem startField_commandWord : startField (commandWord op prim start count var) = start := by
  refine BitVec.eq_of_getLsbD_eq fun i hi => ?_
  rw [startField, BitVec.getLsbD_extractLsb', commandWord_getLsbD, decide_eq_true hi, Bool.true_and, if_neg (by omega),
    if_neg (by omega), if_pos (by omega)]
  congr 1; omega

@[simp] theorem countField_commandWord : countField (commandWord op prim start count var) = count := by
  refine BitVec.eq_of_getLsbD_eq fun i hi => ?_
  rw [countField, BitVec.getLsbD_extractLsb', commandWord_getLsbD, decide_eq_true hi, Bool.true_and, if_neg (by omega),
    if_neg (by omega), if_neg (by omega), if_pos (by omega)]
  congr 1; omega

@[simp] theorem varField_commandWord : varField (commandWord op prim start count var) = var := by
  refine BitVec.eq_of_getLsbD_eq fun i hi => ?_
  rw [varField, BitVec.getLsbD_extractLsb', commandWord_getLsbD, decide_eq_true hi, Bool.true_and, if_neg (by omega),
    if_neg (by omega), if_neg (by omega), if_neg (by omega), if_pos (by omega)]
  congr 1; omega

@[simp] theorem rsvField_commandWord : rsvField (commandWord op prim start count var) = 0#4 := by
  refine BitVec.eq_of_getLsbD_eq fun i hi => ?_
  rw [rsvField, BitVec.getLsbD_extractLsb', commandWord_getLsbD, decide_eq_true hi, Bool.true_and, if_neg (by omega),
    if_neg (by omega), if_neg (by omega), if_neg (by omega), if_neg (by omega), BitVec.getLsbD_zero]

end fields

/-- A word with RSV = 0 is rebuilt from its fields. -/
theorem commandWord_fields {c : Word} (h : rsvField c = 0#4) :
    commandWord (opField c) (primField c) (startField c) (countField c) (varField c) = c := by
  refine BitVec.eq_of_getLsbD_eq fun i hi => ?_
  rw [commandWord_getLsbD]
  simp only [opField, primField, startField, countField, varField, BitVec.getLsbD_extractLsb']
  repeat' split
  all_goals try (rw [decide_eq_true (by omega), Bool.true_and]; congr 1; omega)
  have := congrArg (fun b : Nibble => b.getLsbD (i - 28)) h
  simp only [rsvField, BitVec.getLsbD_extractLsb', BitVec.getLsbD_zero] at this
  rw [decide_eq_true (by omega), Bool.true_and, show 28 + (i - 28) = i by omega] at this
  exact this.symm

@[simp] theorem Prim.ofCode_code (p : Prim) : Prim.ofCode p.code = some p := by cases p <;> rfl

theorem Prim.code_of_ofCode {n : Nibble} {p : Prim} (h : Prim.ofCode n = some p) : p.code = n := by
  revert h; revert n; cases p <;> decide

theorem Prim.code_lt (p : Prim) : p.code.toNat < 8 := by cases p <;> decide

theorem Prim.code_injective {p q : Prim} (h : p.code = q.code) : p = q := by revert h; cases p <;> cases q <;> decide

@[simp] theorem Branches.ofVar_var (b : Branches) : Branches.ofVar b.var = some b := by cases b <;> rfl

theorem Branches.var_of_ofVar {n : Nibble} {b : Branches} (h : Branches.ofVar n = some b) : b.var = n := by
  revert h; revert n; cases b <;> decide

@[simp] theorem grainWidthOf_grainVar (w : GrainWidth) (m : GrainMode) : grainWidthOf (grainVar w m) = w := by
  cases w <;> cases m <;> rfl

@[simp] theorem grainModeOf_grainVar (w : GrainWidth) (m : GrainMode) : grainModeOf (grainVar w m) = m := by
  cases w <;> cases m <;> rfl

/-- A legal Grain `VAR` is rebuilt from its width and mode. -/
theorem grainVar_of_fields {v : Nibble} (h : v.extractLsb' 2 2 = 0#2) : grainVar (grainWidthOf v) (grainModeOf v) = v := by
  revert v; decide

/-- Decoding answers exactly when no encoding check fails and the word has a row. -/
theorem decode_ok_iff {cap : Byte} {c : Word} {i : Instr} :
    decode cap c = .ok i ↔ encodingCheck cap c = none ∧ rowOf c = some i := by
  unfold decode
  split
  · simp_all
  · split <;> simp_all

end Sys2Proof
end

