-- ==== Sys2Proof/Laws/Memory.lean ====
section
/-! SUPPORT. Byte memory: read after write, the canonical form, and that memories in canonical form with the same bytes are
the same list. -/

namespace Sys2Proof.Machine

namespace Memory

theorem wfFrom_mono {m : Memory} {l k : Nat} (hkl : k ≤ l) (h : wfFrom l m = true) : wfFrom k m = true := by
  cases m with
  | nil => rfl
  | cons x rest =>
    simp only [wfFrom, Bool.and_eq_true, decide_eq_true_eq] at h ⊢
    exact ⟨⟨by omega, h.1.2⟩, h.2⟩

/-- A byte below everything listed reads as 0. -/
theorem read_below {m : Memory} {l a : Nat} (h : wfFrom l m = true) (ha : a < l) : m.read a = 0#8 := by
  induction m generalizing l with
  | nil => rfl
  | cons x rest ih =>
    obtain ⟨b, u⟩ := x
    simp only [wfFrom, Bool.and_eq_true, decide_eq_true_eq] at h
    have hb : b ≠ a := by omega
    simp only [read, hb, if_false]
    exact ih h.2 (by omega)

theorem wfFrom_write {m : Memory} {l a : Nat} (v : Byte) (h : wfFrom l m = true) (ha : l ≤ a) :
    wfFrom l (m.write a v) = true := by
  induction m generalizing l with
  | nil =>
    by_cases hv : v = 0#8 <;> simp [write, wfFrom, hv, ha]
  | cons x rest ih =>
    obtain ⟨b, u⟩ := x
    have h' := h
    simp only [wfFrom, Bool.and_eq_true, decide_eq_true_eq] at h'
    obtain ⟨⟨hlb, hu⟩, hrest⟩ := h'
    simp only [write]
    split
    · split
      · exact h
      · next hab hv =>
        simp only [wfFrom, Bool.and_eq_true, decide_eq_true_eq, bne_iff_ne]
        exact ⟨⟨ha, hv⟩, ⟨⟨by omega, by simpa using hu⟩, hrest⟩⟩
    · split
      · next hab =>
        subst hab
        split
        · exact wfFrom_mono (by omega) hrest
        · next hv =>
          simp only [wfFrom, Bool.and_eq_true, decide_eq_true_eq, bne_iff_ne]
          exact ⟨⟨ha, hv⟩, hrest⟩
      · next h1 h2 =>
        simp only [wfFrom, Bool.and_eq_true, decide_eq_true_eq]
        exact ⟨⟨hlb, hu⟩, ih hrest (by omega)⟩

/-- A write keeps the canonical form. -/
theorem wf_write {m : Memory} (a : Nat) (v : Byte) (h : m.wf = true) : (m.write a v).wf = true :=
  wfFrom_write v h (Nat.zero_le a)

theorem wf_writeBytes {m : Memory} (a : Nat) (vs : List Byte) (h : m.wf = true) : (m.writeBytes a vs).wf = true := by
  induction vs generalizing m a with
  | nil => exact h
  | cons v rest ih => exact ih (a + 1) (wf_write a v h)

theorem wf_writeWord {m : Memory} (a : Nat) (v : Word) (h : m.wf = true) : (m.writeWord a v).wf = true :=
  wf_writeBytes a _ h

theorem wf_nil : wf [] = true := rfl

/-- A write leaves every other byte alone. No canonical form is needed. -/
theorem read_write_other {m : Memory} {a b : Nat} (v : Byte) (hne : b ≠ a) : (m.write a v).read b = m.read b := by
  induction m with
  | nil => by_cases hv : v = 0#8 <;> simp [write, read, hv, Ne.symm hne]
  | cons x rest ih =>
    obtain ⟨c, u⟩ := x
    simp only [write]
    split
    · split <;> simp [read, Ne.symm hne]
    · split
      · next hac =>
        subst hac
        split <;> simp [read, Ne.symm hne]
      · simp only [read, ih]

theorem read_write_same_from {m : Memory} {l a : Nat} (v : Byte) (h : wfFrom l m = true) :
    (m.write a v).read a = v := by
  induction m generalizing l with
  | nil => by_cases hv : v = 0#8 <;> simp [write, read, hv]
  | cons x rest ih =>
    obtain ⟨c, u⟩ := x
    simp only [wfFrom, Bool.and_eq_true, decide_eq_true_eq] at h
    obtain ⟨-, hrest⟩ := h
    simp only [write]
    split
    · next hac =>
      split
      · next hv =>
        have hca : c ≠ a := by omega
        simp only [read, hca, if_false, hv]
        exact read_below hrest (by omega)
      · simp [read]
    · split
      · next hac =>
        subst hac
        split
        · next hv => rw [hv]; exact read_below hrest (by omega)
        · simp [read]
      · next h1 h2 =>
        have hca : c ≠ a := fun e => h2 e.symm
        simp only [read, hca, if_false]
        exact ih hrest

/-- A read after a write to the same byte gives what was written. -/
theorem read_write_same {m : Memory} (a : Nat) (v : Byte) (h : m.wf = true) : (m.write a v).read a = v :=
  read_write_same_from v h

/-- Bytes outside a run of written bytes are unchanged. -/
theorem read_writeBytes_outside {m : Memory} {a b : Nat} (vs : List Byte) (h : b < a ∨ a + vs.length ≤ b) :
    (m.writeBytes a vs).read b = m.read b := by
  induction vs generalizing m a with
  | nil => rfl
  | cons v rest ih =>
    simp only [List.length_cons] at h
    rw [writeBytes, ih (by omega), read_write_other v (by omega)]

/-- Bytes of a run of written bytes read as written. -/
theorem read_writeBytes_inside {m : Memory} {a i : Nat} (vs : List Byte) (h : m.wf = true) (hi : i < vs.length) :
    (m.writeBytes a vs).read (a + i) = vs[i] := by
  induction vs generalizing m a i with
  | nil => exact absurd hi (by simp)
  | cons v rest ih =>
    cases i with
    | zero =>
      rw [writeBytes, read_writeBytes_outside rest (by omega)]
      simpa using read_write_same a v h
    | succ i =>
      have := ih (m := m.write a v) (a := a + 1) (i := i) (wf_write a v h) (by simpa using hi)
      simpa [writeBytes, Nat.add_assoc, Nat.add_comm 1 i] using this

/-- The listed offsets after a write: the written one and those listed before. -/
theorem mem_write {m : Memory} {a : Nat} {v : Byte} {cell : Host.Cell} (h : cell ∈ m.write a v) :
    cell.1 = a ∨ cell ∈ m := by
  induction m with
  | nil => by_cases hv : v = 0#8 <;> simp_all [write]
  | cons x rest ih =>
    obtain ⟨c, u⟩ := x
    simp only [write] at h
    split at h
    · split at h
      · exact .inr h
      · rcases List.mem_cons.mp h with h | h
        · exact .inl (by rw [h])
        · exact .inr h
    · split at h
      · split at h
        · exact .inr (List.mem_cons_of_mem _ h)
        · rcases List.mem_cons.mp h with h | h
          · exact .inl (by rw [h])
          · exact .inr (List.mem_cons_of_mem _ h)
      · rcases List.mem_cons.mp h with h | h
        · exact .inr (by rw [h]; exact List.mem_cons_self)
        · rcases ih h with h | h
          · exact .inl h
          · exact .inr (List.mem_cons_of_mem _ h)

theorem mem_writeBytes {m : Memory} {a : Nat} {vs : List Byte} {cell : Host.Cell} (h : cell ∈ m.writeBytes a vs) :
    (a ≤ cell.1 ∧ cell.1 < a + vs.length) ∨ cell ∈ m := by
  induction vs generalizing m a with
  | nil => exact .inr h
  | cons v rest ih =>
    rcases ih h with h | h
    · exact .inl (by simp only [List.length_cons]; omega)
    · rcases mem_write h with h | h
      · exact .inl (by simp only [List.length_cons]; omega)
      · exact .inr h

theorem ext_from {m n : Memory} {l k : Nat} (hm : wfFrom l m = true) (hn : wfFrom k n = true)
    (h : ∀ a, m.read a = n.read a) : m = n := by
  induction m generalizing n l k with
  | nil =>
    cases n with
    | nil => rfl
    | cons y rest =>
      obtain ⟨c, v⟩ := y
      simp only [wfFrom, Bool.and_eq_true, bne_iff_ne] at hn
      exact absurd (h c).symm (by simpa [read] using hn.1.2)
  | cons x rest ih =>
    obtain ⟨b, u⟩ := x
    simp only [wfFrom, Bool.and_eq_true, bne_iff_ne, decide_eq_true_eq] at hm
    obtain ⟨⟨-, hu⟩, hrest⟩ := hm
    cases n with
    | nil => exact absurd (h b) (by simpa [read] using hu)
    | cons y rest' =>
      obtain ⟨c, v⟩ := y
      simp only [wfFrom, Bool.and_eq_true, bne_iff_ne, decide_eq_true_eq] at hn
      obtain ⟨⟨-, hv⟩, hrest'⟩ := hn
      have hbc : b = c := by
        rcases Nat.lt_trichotomy b c with hlt | heq | hlt
        · have := h b
          rw [read, if_pos rfl, read, if_neg (by omega), read_below hrest' (by omega)] at this
          exact absurd this hu
        · exact heq
        · have := h c
          rw [read, if_neg (by omega), read_below hrest (by omega), read, if_pos rfl] at this
          exact absurd this.symm hv
      subst hbc
      have huv : u = v := by simpa [read] using h b
      subst huv
      rw [ih hrest hrest' fun a => ?_]
      rcases Nat.lt_or_ge a (b + 1) with ha | ha
      · rw [read_below hrest ha, read_below hrest' ha]
      · have := h a
        rwa [read, if_neg (by omega), read, if_neg (by omega)] at this

/-- Memories in canonical form with the same bytes are equal. -/
theorem ext_of_wf {m n : Memory} (hm : m.wf = true) (hn : n.wf = true) (h : ∀ a, m.read a = n.read a) : m = n :=
  ext_from hm hn h

@[simp] theorem readBytes_length (m : Memory) (a n : Nat) : (m.readBytes a n).length = n := by simp [readBytes]

@[simp] theorem readBytes_getElem (m : Memory) (a n i : Nat) (h : i < (m.readBytes a n).length) :
    (m.readBytes a n)[i] = m.read (a + i) := by simp [readBytes]

/-- Writing a run of bytes back where it was read from changes nothing. -/
theorem writeBytes_readBytes {m : Memory} (a n : Nat) (h : m.wf = true) : m.writeBytes a (m.readBytes a n) = m := by
  refine ext_of_wf (wf_writeBytes a _ h) h fun b => ?_
  by_cases hb : a ≤ b ∧ b < a + n
  · obtain ⟨i, rfl⟩ := Nat.exists_eq_add_of_le hb.1
    rw [read_writeBytes_inside _ h (by simp; omega)]
    simp
  · exact read_writeBytes_outside _ (by simp; omega)

end Memory

end Sys2Proof.Machine
end

