-- ==== Sys2Proof/Laws/Operands.lean ====
section
/-! SUPPORT. The operand forms: entries of tabulated files, byte order round trips, and how round loops compose. -/

namespace Sys2Proof.Machine

@[simp] theorem tabulate_getElem {α : Type} {n : Nat} (f : Fin n → α) (i : Nat) (h : i < n) :
    (tabulate n f)[i] = f ⟨i, h⟩ := by simp [tabulate]

/-- Entry k of an overlaid file. -/
theorem overlay_getElem (w : Words) (vs : List Word) (k : Nat) (h : k < 16) :
    (overlay w vs)[k] = (vs[k]?).getD w[k] := by simp [overlay]

theorem overlay_inside (w : Words) (vs : List Word) (k : Nat) (h : k < 16) (hv : k < vs.length) :
    (overlay w vs)[k] = vs[k] := by simp [overlay, hv]

theorem overlay_outside (w : Words) (vs : List Word) (k : Nat) (h : k < 16) (hv : vs.length ≤ k) :
    (overlay w vs)[k] = w[k] := by simp [overlay, List.getElem?_eq_none hv]

@[simp] theorem setWord_getElem (w : Words) (k : Nat) (v : Word) (j : Nat) (h : j < 16) :
    (setWord w k v)[j] = if j = k then v else w[j] := by simp [setWord]

/-! ## Byte order -/

/-- The bits of a little-endian word. -/
theorem le32_getLsbD (a b c d : Byte) (i : Nat) :
    (le32 a b c d).getLsbD i =
      if i < 8 then a.getLsbD i
      else if i < 16 then b.getLsbD (i - 8)
      else if i < 24 then c.getLsbD (i - 16)
      else d.getLsbD (i - 24) := by
  have h : (d ++ c ++ b ++ a : BitVec (8 + 8 + 8 + 8)).getLsbD i = _ := BitVec.getLsbD_append
  refine h.trans ?_
  simp only [BitVec.getLsbD_append, Nat.sub_sub]
  repeat' split
  all_goals first | rfl | omega

/-- The bits of a byte of a word. -/
theorem byteOf_getLsbD (v : Word) (k i : Nat) : (byteOf v k).getLsbD i = (decide (i < 8) && v.getLsbD (8 * k + i)) := by
  simp [byteOf, BitVec.getLsbD_extractLsb']

theorem byteOf_le32 (a b c d : Byte) :
    byteOf (le32 a b c d) 0 = a ∧ byteOf (le32 a b c d) 1 = b ∧ byteOf (le32 a b c d) 2 = c ∧
      byteOf (le32 a b c d) 3 = d := by
  refine ⟨?_, ?_, ?_, ?_⟩ <;> refine BitVec.eq_of_getLsbD_eq fun i hi => ?_ <;>
    simp only [byteOf_getLsbD, le32_getLsbD, hi, decide_true, Bool.true_and]
  · simp [hi]
  · rw [if_neg (by omega), if_pos (by omega)]; congr 1; omega
  · rw [if_neg (by omega), if_neg (by omega), if_pos (by omega)]; congr 1; omega
  · rw [if_neg (by omega), if_neg (by omega), if_neg (by omega)]; congr 1; omega

theorem le32_byteOf (v : Word) : le32 (byteOf v 0) (byteOf v 1) (byteOf v 2) (byteOf v 3) = v := by
  refine BitVec.eq_of_getLsbD_eq fun i hi => ?_
  simp only [byteOf_getLsbD, le32_getLsbD]
  repeat' split
  all_goals
    rw [decide_eq_true (by omega), Bool.true_and]
    congr 1
    omega

theorem be32_eq_le32 (a b c d : Byte) : be32 a b c d = le32 d c b a := rfl

theorem putLE32_le32 (a b c d : Byte) : putLE32 (le32 a b c d) = [a, b, c, d] := by
  obtain ⟨h0, h1, h2, h3⟩ := byteOf_le32 a b c d
  simp [putLE32, h0, h1, h2, h3]

theorem putBE32_be32 (a b c d : Byte) : putBE32 (be32 a b c d) = [a, b, c, d] := by
  obtain ⟨h0, h1, h2, h3⟩ := byteOf_le32 d c b a
  simp [putBE32, be32_eq_le32, h0, h1, h2, h3]

/-- Bytes to words to bytes, little-endian. -/
theorem le32Bytes_le32Words : ∀ bs : List Byte, bs.length % 4 = 0 → le32Bytes (le32Words bs) = bs
  | [], _ => rfl
  | [_], h => by simp at h
  | [_, _], h => by simp at h
  | [_, _, _], h => by simp at h
  | a :: b :: c :: d :: rest, h => by
    simp only [List.length_cons] at h
    rw [le32Words, le32Bytes, putLE32_le32, le32Bytes_le32Words rest (by omega)]
    rfl

/-- Bytes to words to bytes, big-endian. -/
theorem be32Bytes_be32Words : ∀ bs : List Byte, bs.length % 4 = 0 → be32Bytes (be32Words bs) = bs
  | [], _ => rfl
  | [_], h => by simp at h
  | [_, _], h => by simp at h
  | [_, _, _], h => by simp at h
  | a :: b :: c :: d :: rest, h => by
    simp only [List.length_cons] at h
    rw [be32Words, be32Bytes, putBE32_be32, be32Bytes_be32Words rest (by omega)]
    rfl

/-- Bytes to word pairs to bytes, big-endian doublewords. -/
theorem be64Bytes_be64WordPairs : ∀ bs : List Byte, bs.length % 8 = 0 → be64Bytes (be64WordPairs bs) = bs
  | [], _ => rfl
  | [_], h => by simp at h
  | [_, _], h => by simp at h
  | [_, _, _], h => by simp at h
  | [_, _, _, _], h => by simp at h
  | [_, _, _, _, _], h => by simp at h
  | [_, _, _, _, _, _], h => by simp at h
  | [_, _, _, _, _, _, _], h => by simp at h
  | a :: b :: c :: d :: e :: f :: g :: i :: rest, h => by
    simp only [List.length_cons] at h
    rw [be64WordPairs, be64Bytes, putBE32_be32, putBE32_be32, be64Bytes_be64WordPairs rest (by omega)]
    rfl

/-- Words to bytes to words, little-endian. -/
theorem le32Words_le32Bytes (ws : List Word) : le32Words (le32Bytes ws) = ws := by
  induction ws with
  | nil => rfl
  | cons v rest ih => simp [le32Bytes, putLE32, le32Words, le32_byteOf, ih]

/-- Words to bytes to words, big-endian. -/
theorem be32Words_be32Bytes (ws : List Word) : be32Words (be32Bytes ws) = ws := by
  induction ws with
  | nil => rfl
  | cons v rest ih => simp [be32Bytes, putBE32, be32Words, be32_eq_le32, le32_byteOf, ih]

/-- Word pairs to bytes to word pairs, big-endian doublewords. -/
theorem be64WordPairs_be64Bytes : ∀ ws : List Word, ws.length % 2 = 0 → be64WordPairs (be64Bytes ws) = ws
  | [], _ => rfl
  | [_], h => by simp at h
  | lo :: hi :: rest, h => by
    simp only [List.length_cons] at h
    simp [be64Bytes, putBE32, be64WordPairs, be32_eq_le32, le32_byteOf, be64WordPairs_be64Bytes rest (by omega)]

@[simp] theorem le32Bytes_length (ws : List Word) : (le32Bytes ws).length = 4 * ws.length := by
  induction ws with
  | nil => rfl
  | cons v rest ih => simp [le32Bytes, putLE32, ih]; omega

@[simp] theorem be32Bytes_length (ws : List Word) : (be32Bytes ws).length = 4 * ws.length := by
  induction ws with
  | nil => rfl
  | cons v rest ih => simp [be32Bytes, putBE32, ih]; omega

@[simp] theorem firstWords_length (n : Nat) (w : Words) : (firstWords n w).length = min n 16 := by simp [firstWords]

theorem putLE32_length (v : Word) : (putLE32 v).length = 4 := rfl

/-! ## Rounds -/

/-- Rounds a … a+m−1, then a+m … a+m+n−1, are rounds a … a+m+n−1. -/
theorem roundsFrom_add {α : Type} (round : Nat → α → α) (a m n : Nat) (x : α) :
    roundsFrom round a (m + n) x = roundsFrom round (a + m) n (roundsFrom round a m x) := by
  induction m generalizing a x with
  | zero => simp [roundsFrom]
  | succ m ih =>
    rw [show m + 1 + n = (m + n) + 1 by omega, roundsFrom, roundsFrom, ih, show a + 1 + m = a + (m + 1) by omega]

theorem roundsFrom_zero {α : Type} (round : Nat → α → α) (a : Nat) (x : α) : roundsFrom round a 0 x = x := rfl

/-! ## Lengths -/

theorem le32Words_length : ∀ bs : List Byte, (le32Words bs).length = bs.length / 4
  | [] => by simp [le32Words]
  | [_] => by simp [le32Words]
  | [_, _] => by simp [le32Words]
  | [_, _, _] => by simp [le32Words]
  | a :: b :: c :: d :: rest => by simp only [le32Words, List.length_cons, le32Words_length rest]; omega

theorem be32Words_length : ∀ bs : List Byte, (be32Words bs).length = bs.length / 4
  | [] => by simp [be32Words]
  | [_] => by simp [be32Words]
  | [_, _] => by simp [be32Words]
  | [_, _, _] => by simp [be32Words]
  | a :: b :: c :: d :: rest => by simp only [be32Words, List.length_cons, be32Words_length rest]; omega

theorem be64WordPairs_length : ∀ bs : List Byte, (be64WordPairs bs).length = bs.length / 8 * 2
  | [] => by simp [be64WordPairs]
  | [_] => by simp [be64WordPairs]
  | [_, _] => by simp [be64WordPairs]
  | [_, _, _] => by simp [be64WordPairs]
  | [_, _, _, _] => by simp [be64WordPairs]
  | [_, _, _, _, _] => by simp [be64WordPairs]
  | [_, _, _, _, _, _] => by simp [be64WordPairs]
  | [_, _, _, _, _, _, _] => by simp [be64WordPairs]
  | a :: b :: c :: d :: e :: f :: g :: h :: rest => by
    simp only [be64WordPairs, List.length_cons, be64WordPairs_length rest]; omega

theorem be64Bytes_length : ∀ ws : List Word, (be64Bytes ws).length = 8 * (ws.length / 2)
  | [] => by simp [be64Bytes]
  | [_] => by simp [be64Bytes]
  | lo :: hi :: rest => by
    simp only [be64Bytes, List.length_cons, List.length_append, be64Bytes_length rest, putBE32, List.length_nil]
    omega

end Sys2Proof.Machine
end

