-- ==== Sys2Proof/Laws/State.lean ====
section
/-! SUPPORT. One lemma per field of State and per named update, true by rfl, so that no proof unfolds a record update. -/

namespace Sys2Proof.Machine

variable (s : State)

@[simp] theorem reject_w (e : ErrorCode) (c : Word) : (s.reject e c).w = s.w := rfl
@[simp] theorem reject_mem (e : ErrorCode) (c : Word) : (s.reject e c).mem = s.mem := rfl
@[simp] theorem reject_mkey (e : ErrorCode) (c : Word) : (s.reject e c).mkey = s.mkey := rfl
@[simp] theorem reject_mprim (e : ErrorCode) (c : Word) : (s.reject e c).mprim = s.mprim := rfl
@[simp] theorem reject_mvalid (e : ErrorCode) (c : Word) : (s.reject e c).mvalid = s.mvalid := rfl
@[simp] theorem reject_lprim (e : ErrorCode) (c : Word) : (s.reject e c).lprim = s.lprim := rfl
@[simp] theorem reject_lvalid (e : ErrorCode) (c : Word) : (s.reject e c).lvalid = s.lvalid := rfl
@[simp] theorem reject_ieDone (e : ErrorCode) (c : Word) : (s.reject e c).ieDone = s.ieDone := rfl
@[simp] theorem reject_ieErr (e : ErrorCode) (c : Word) : (s.reject e c).ieErr = s.ieErr := rfl
@[simp] theorem reject_done (e : ErrorCode) (c : Word) : (s.reject e c).done = s.done := rfl
@[simp] theorem reject_err (e : ErrorCode) (c : Word) : (s.reject e c).err = true := rfl
@[simp] theorem reject_ovr (e : ErrorCode) (c : Word) : (s.reject e c).ovr = s.ovr := rfl
@[simp] theorem reject_ecode (e : ErrorCode) (c : Word) : (s.reject e c).ecode = e := rfl
@[simp] theorem reject_ecmd (e : ErrorCode) (c : Word) : (s.reject e c).ecmd = c := rfl
@[simp] theorem reject_pend (e : ErrorCode) (c : Word) : (s.reject e c).pend = s.pend := rfl
@[simp] theorem reject_primPresent (e : ErrorCode) (c : Word) : (s.reject e c).primPresent = s.primPresent := rfl
@[simp] theorem reject_inReset (e : ErrorCode) (c : Word) : (s.reject e c).inReset = s.inReset := rfl
@[simp] theorem reject_agenda (e : ErrorCode) (c : Word) : (s.reject e c).agenda = s.agenda := rfl
@[simp] theorem reject_responses (e : ErrorCode) (c : Word) : (s.reject e c).responses = s.responses := rfl
@[simp] theorem reject_draws (e : ErrorCode) (c : Word) : (s.reject e c).draws = s.draws := rfl

@[simp] theorem accept_w (c : Word) : (s.accept c).w = s.w := rfl
@[simp] theorem accept_mem (c : Word) : (s.accept c).mem = s.mem := rfl
@[simp] theorem accept_mkey (c : Word) : (s.accept c).mkey = s.mkey := rfl
@[simp] theorem accept_mprim (c : Word) : (s.accept c).mprim = s.mprim := rfl
@[simp] theorem accept_mvalid (c : Word) : (s.accept c).mvalid = s.mvalid := rfl
@[simp] theorem accept_lprim (c : Word) : (s.accept c).lprim = s.lprim := rfl
@[simp] theorem accept_lvalid (c : Word) : (s.accept c).lvalid = s.lvalid := rfl
@[simp] theorem accept_ieDone (c : Word) : (s.accept c).ieDone = s.ieDone := rfl
@[simp] theorem accept_ieErr (c : Word) : (s.accept c).ieErr = s.ieErr := rfl
@[simp] theorem accept_done (c : Word) : (s.accept c).done = s.done := rfl
@[simp] theorem accept_err (c : Word) : (s.accept c).err = s.err := rfl
@[simp] theorem accept_ovr (c : Word) : (s.accept c).ovr = s.ovr := rfl
@[simp] theorem accept_ecode (c : Word) : (s.accept c).ecode = s.ecode := rfl
@[simp] theorem accept_ecmd (c : Word) : (s.accept c).ecmd = s.ecmd := rfl
@[simp] theorem accept_pend (c : Word) : (s.accept c).pend = some c := rfl
@[simp] theorem accept_primPresent (c : Word) : (s.accept c).primPresent = s.primPresent := rfl
@[simp] theorem accept_inReset (c : Word) : (s.accept c).inReset = s.inReset := rfl
@[simp] theorem accept_agenda (c : Word) : (s.accept c).agenda = s.agenda := rfl
@[simp] theorem accept_responses (c : Word) : (s.accept c).responses = s.responses := rfl
@[simp] theorem accept_draws (c : Word) : (s.accept c).draws = s.draws := rfl

@[simp] theorem retire_w : (s.retire).w = s.w := rfl
@[simp] theorem retire_mem : (s.retire).mem = s.mem := rfl
@[simp] theorem retire_mkey : (s.retire).mkey = s.mkey := rfl
@[simp] theorem retire_mprim : (s.retire).mprim = s.mprim := rfl
@[simp] theorem retire_mvalid : (s.retire).mvalid = s.mvalid := rfl
@[simp] theorem retire_lprim : (s.retire).lprim = s.lprim := rfl
@[simp] theorem retire_lvalid : (s.retire).lvalid = s.lvalid := rfl
@[simp] theorem retire_ieDone : (s.retire).ieDone = s.ieDone := rfl
@[simp] theorem retire_ieErr : (s.retire).ieErr = s.ieErr := rfl
@[simp] theorem retire_done : (s.retire).done = s.done := rfl
@[simp] theorem retire_err : (s.retire).err = s.err := rfl
@[simp] theorem retire_ovr : (s.retire).ovr = s.ovr := rfl
@[simp] theorem retire_ecode : (s.retire).ecode = s.ecode := rfl
@[simp] theorem retire_ecmd : (s.retire).ecmd = s.ecmd := rfl
@[simp] theorem retire_pend : (s.retire).pend = none := rfl
@[simp] theorem retire_primPresent : (s.retire).primPresent = s.primPresent := rfl
@[simp] theorem retire_inReset : (s.retire).inReset = s.inReset := rfl
@[simp] theorem retire_agenda : (s.retire).agenda = s.agenda := rfl
@[simp] theorem retire_responses : (s.retire).responses = s.responses := rfl
@[simp] theorem retire_draws : (s.retire).draws = s.draws := rfl

@[simp] theorem finish_w : (s.finish).w = s.w := rfl
@[simp] theorem finish_mem : (s.finish).mem = s.mem := rfl
@[simp] theorem finish_mkey : (s.finish).mkey = s.mkey := rfl
@[simp] theorem finish_mprim : (s.finish).mprim = s.mprim := rfl
@[simp] theorem finish_mvalid : (s.finish).mvalid = s.mvalid := rfl
@[simp] theorem finish_lprim : (s.finish).lprim = s.lprim := rfl
@[simp] theorem finish_lvalid : (s.finish).lvalid = s.lvalid := rfl
@[simp] theorem finish_ieDone : (s.finish).ieDone = s.ieDone := rfl
@[simp] theorem finish_ieErr : (s.finish).ieErr = s.ieErr := rfl
@[simp] theorem finish_done : (s.finish).done = true := rfl
@[simp] theorem finish_err : (s.finish).err = s.err := rfl
@[simp] theorem finish_ovr : (s.finish).ovr = s.ovr := rfl
@[simp] theorem finish_ecode : (s.finish).ecode = s.ecode := rfl
@[simp] theorem finish_ecmd : (s.finish).ecmd = s.ecmd := rfl
@[simp] theorem finish_pend : (s.finish).pend = none := rfl
@[simp] theorem finish_primPresent : (s.finish).primPresent = s.primPresent := rfl
@[simp] theorem finish_inReset : (s.finish).inReset = s.inReset := rfl
@[simp] theorem finish_agenda : (s.finish).agenda = s.agenda := rfl
@[simp] theorem finish_responses : (s.finish).responses = s.responses := rfl
@[simp] theorem finish_draws : (s.finish).draws = s.draws := rfl

@[simp] theorem overrun_w : (s.overrun).w = s.w := rfl
@[simp] theorem overrun_mem : (s.overrun).mem = s.mem := rfl
@[simp] theorem overrun_mkey : (s.overrun).mkey = s.mkey := rfl
@[simp] theorem overrun_mprim : (s.overrun).mprim = s.mprim := rfl
@[simp] theorem overrun_mvalid : (s.overrun).mvalid = s.mvalid := rfl
@[simp] theorem overrun_lprim : (s.overrun).lprim = s.lprim := rfl
@[simp] theorem overrun_lvalid : (s.overrun).lvalid = s.lvalid := rfl
@[simp] theorem overrun_ieDone : (s.overrun).ieDone = s.ieDone := rfl
@[simp] theorem overrun_ieErr : (s.overrun).ieErr = s.ieErr := rfl
@[simp] theorem overrun_done : (s.overrun).done = s.done := rfl
@[simp] theorem overrun_err : (s.overrun).err = s.err := rfl
@[simp] theorem overrun_ovr : (s.overrun).ovr = true := rfl
@[simp] theorem overrun_ecode : (s.overrun).ecode = s.ecode := rfl
@[simp] theorem overrun_ecmd : (s.overrun).ecmd = s.ecmd := rfl
@[simp] theorem overrun_pend : (s.overrun).pend = s.pend := rfl
@[simp] theorem overrun_primPresent : (s.overrun).primPresent = s.primPresent := rfl
@[simp] theorem overrun_inReset : (s.overrun).inReset = s.inReset := rfl
@[simp] theorem overrun_agenda : (s.overrun).agenda = s.agenda := rfl
@[simp] theorem overrun_responses : (s.overrun).responses = s.responses := rfl
@[simp] theorem overrun_draws : (s.overrun).draws = s.draws := rfl

@[simp] theorem respond_w (r : Answer) : (s.respond r).w = s.w := rfl
@[simp] theorem respond_mem (r : Answer) : (s.respond r).mem = s.mem := rfl
@[simp] theorem respond_mkey (r : Answer) : (s.respond r).mkey = s.mkey := rfl
@[simp] theorem respond_mprim (r : Answer) : (s.respond r).mprim = s.mprim := rfl
@[simp] theorem respond_mvalid (r : Answer) : (s.respond r).mvalid = s.mvalid := rfl
@[simp] theorem respond_lprim (r : Answer) : (s.respond r).lprim = s.lprim := rfl
@[simp] theorem respond_lvalid (r : Answer) : (s.respond r).lvalid = s.lvalid := rfl
@[simp] theorem respond_ieDone (r : Answer) : (s.respond r).ieDone = s.ieDone := rfl
@[simp] theorem respond_ieErr (r : Answer) : (s.respond r).ieErr = s.ieErr := rfl
@[simp] theorem respond_done (r : Answer) : (s.respond r).done = s.done := rfl
@[simp] theorem respond_err (r : Answer) : (s.respond r).err = s.err := rfl
@[simp] theorem respond_ovr (r : Answer) : (s.respond r).ovr = s.ovr := rfl
@[simp] theorem respond_ecode (r : Answer) : (s.respond r).ecode = s.ecode := rfl
@[simp] theorem respond_ecmd (r : Answer) : (s.respond r).ecmd = s.ecmd := rfl
@[simp] theorem respond_pend (r : Answer) : (s.respond r).pend = s.pend := rfl
@[simp] theorem respond_primPresent (r : Answer) : (s.respond r).primPresent = s.primPresent := rfl
@[simp] theorem respond_inReset (r : Answer) : (s.respond r).inReset = s.inReset := rfl
@[simp] theorem respond_agenda (r : Answer) : (s.respond r).agenda = s.agenda := rfl
@[simp] theorem respond_responses (r : Answer) : (s.respond r).responses = r :: s.responses := rfl
@[simp] theorem respond_draws (r : Answer) : (s.respond r).draws = s.draws := rfl

@[simp] theorem tagLayout_w (p : Prim) : (s.tagLayout p).w = s.w := rfl
@[simp] theorem tagLayout_mem (p : Prim) : (s.tagLayout p).mem = s.mem := rfl
@[simp] theorem tagLayout_mkey (p : Prim) : (s.tagLayout p).mkey = s.mkey := rfl
@[simp] theorem tagLayout_mprim (p : Prim) : (s.tagLayout p).mprim = s.mprim := rfl
@[simp] theorem tagLayout_mvalid (p : Prim) : (s.tagLayout p).mvalid = s.mvalid := rfl
@[simp] theorem tagLayout_lprim (p : Prim) : (s.tagLayout p).lprim = p.code := rfl
@[simp] theorem tagLayout_lvalid (p : Prim) : (s.tagLayout p).lvalid = true := rfl
@[simp] theorem tagLayout_ieDone (p : Prim) : (s.tagLayout p).ieDone = s.ieDone := rfl
@[simp] theorem tagLayout_ieErr (p : Prim) : (s.tagLayout p).ieErr = s.ieErr := rfl
@[simp] theorem tagLayout_done (p : Prim) : (s.tagLayout p).done = s.done := rfl
@[simp] theorem tagLayout_err (p : Prim) : (s.tagLayout p).err = s.err := rfl
@[simp] theorem tagLayout_ovr (p : Prim) : (s.tagLayout p).ovr = s.ovr := rfl
@[simp] theorem tagLayout_ecode (p : Prim) : (s.tagLayout p).ecode = s.ecode := rfl
@[simp] theorem tagLayout_ecmd (p : Prim) : (s.tagLayout p).ecmd = s.ecmd := rfl
@[simp] theorem tagLayout_pend (p : Prim) : (s.tagLayout p).pend = s.pend := rfl
@[simp] theorem tagLayout_primPresent (p : Prim) : (s.tagLayout p).primPresent = s.primPresent := rfl
@[simp] theorem tagLayout_inReset (p : Prim) : (s.tagLayout p).inReset = s.inReset := rfl
@[simp] theorem tagLayout_agenda (p : Prim) : (s.tagLayout p).agenda = s.agenda := rfl
@[simp] theorem tagLayout_responses (p : Prim) : (s.tagLayout p).responses = s.responses := rfl
@[simp] theorem tagLayout_draws (p : Prim) : (s.tagLayout p).draws = s.draws := rfl

@[simp] theorem writeCtrl_w (v : Word) : (s.writeCtrl v).w = s.w := rfl
@[simp] theorem writeCtrl_mem (v : Word) : (s.writeCtrl v).mem = s.mem := rfl
@[simp] theorem writeCtrl_mkey (v : Word) : (s.writeCtrl v).mkey = s.mkey := rfl
@[simp] theorem writeCtrl_mprim (v : Word) : (s.writeCtrl v).mprim = s.mprim := rfl
@[simp] theorem writeCtrl_mvalid (v : Word) : (s.writeCtrl v).mvalid = s.mvalid := rfl
@[simp] theorem writeCtrl_lprim (v : Word) : (s.writeCtrl v).lprim = s.lprim := rfl
@[simp] theorem writeCtrl_lvalid (v : Word) : (s.writeCtrl v).lvalid = s.lvalid := rfl
@[simp] theorem writeCtrl_ieDone (v : Word) : (s.writeCtrl v).ieDone = v.getLsbD 0 := rfl
@[simp] theorem writeCtrl_ieErr (v : Word) : (s.writeCtrl v).ieErr = v.getLsbD 1 := rfl
@[simp] theorem writeCtrl_done (v : Word) : (s.writeCtrl v).done = s.done := rfl
@[simp] theorem writeCtrl_err (v : Word) : (s.writeCtrl v).err = s.err := rfl
@[simp] theorem writeCtrl_ovr (v : Word) : (s.writeCtrl v).ovr = s.ovr := rfl
@[simp] theorem writeCtrl_ecode (v : Word) : (s.writeCtrl v).ecode = s.ecode := rfl
@[simp] theorem writeCtrl_ecmd (v : Word) : (s.writeCtrl v).ecmd = s.ecmd := rfl
@[simp] theorem writeCtrl_pend (v : Word) : (s.writeCtrl v).pend = s.pend := rfl
@[simp] theorem writeCtrl_primPresent (v : Word) : (s.writeCtrl v).primPresent = s.primPresent := rfl
@[simp] theorem writeCtrl_inReset (v : Word) : (s.writeCtrl v).inReset = s.inReset := rfl
@[simp] theorem writeCtrl_agenda (v : Word) : (s.writeCtrl v).agenda = s.agenda := rfl
@[simp] theorem writeCtrl_responses (v : Word) : (s.writeCtrl v).responses = s.responses := rfl
@[simp] theorem writeCtrl_draws (v : Word) : (s.writeCtrl v).draws = s.draws := rfl

@[simp] theorem writeStatus_w (v : Word) : (s.writeStatus v).w = s.w := rfl
@[simp] theorem writeStatus_mem (v : Word) : (s.writeStatus v).mem = s.mem := rfl
@[simp] theorem writeStatus_mkey (v : Word) : (s.writeStatus v).mkey = s.mkey := rfl
@[simp] theorem writeStatus_mprim (v : Word) : (s.writeStatus v).mprim = s.mprim := rfl
@[simp] theorem writeStatus_mvalid (v : Word) : (s.writeStatus v).mvalid = s.mvalid := rfl
@[simp] theorem writeStatus_lprim (v : Word) : (s.writeStatus v).lprim = s.lprim := rfl
@[simp] theorem writeStatus_lvalid (v : Word) : (s.writeStatus v).lvalid = s.lvalid := rfl
@[simp] theorem writeStatus_ieDone (v : Word) : (s.writeStatus v).ieDone = s.ieDone := rfl
@[simp] theorem writeStatus_ieErr (v : Word) : (s.writeStatus v).ieErr = s.ieErr := rfl
@[simp] theorem writeStatus_done (v : Word) : (s.writeStatus v).done = (s.done && !v.getLsbD 1) := rfl
@[simp] theorem writeStatus_err (v : Word) : (s.writeStatus v).err = (s.err && !v.getLsbD 2) := rfl
@[simp] theorem writeStatus_ovr (v : Word) : (s.writeStatus v).ovr = (s.ovr && !v.getLsbD 3) := rfl
@[simp] theorem writeStatus_ecode (v : Word) : (s.writeStatus v).ecode = s.ecode := rfl
@[simp] theorem writeStatus_ecmd (v : Word) : (s.writeStatus v).ecmd = s.ecmd := rfl
@[simp] theorem writeStatus_pend (v : Word) : (s.writeStatus v).pend = s.pend := rfl
@[simp] theorem writeStatus_primPresent (v : Word) : (s.writeStatus v).primPresent = s.primPresent := rfl
@[simp] theorem writeStatus_inReset (v : Word) : (s.writeStatus v).inReset = s.inReset := rfl
@[simp] theorem writeStatus_agenda (v : Word) : (s.writeStatus v).agenda = s.agenda := rfl
@[simp] theorem writeStatus_responses (v : Word) : (s.writeStatus v).responses = s.responses := rfl
@[simp] theorem writeStatus_draws (v : Word) : (s.writeStatus v).draws = s.draws := rfl

@[simp] theorem resetItems_w : (s.resetItems).w = State.reset.w := rfl
@[simp] theorem resetItems_mem : (s.resetItems).mem = State.reset.mem := rfl
@[simp] theorem resetItems_mkey : (s.resetItems).mkey = State.reset.mkey := rfl
@[simp] theorem resetItems_mprim : (s.resetItems).mprim = State.reset.mprim := rfl
@[simp] theorem resetItems_mvalid : (s.resetItems).mvalid = State.reset.mvalid := rfl
@[simp] theorem resetItems_lprim : (s.resetItems).lprim = State.reset.lprim := rfl
@[simp] theorem resetItems_lvalid : (s.resetItems).lvalid = State.reset.lvalid := rfl
@[simp] theorem resetItems_ieDone : (s.resetItems).ieDone = State.reset.ieDone := rfl
@[simp] theorem resetItems_ieErr : (s.resetItems).ieErr = State.reset.ieErr := rfl
@[simp] theorem resetItems_done : (s.resetItems).done = State.reset.done := rfl
@[simp] theorem resetItems_err : (s.resetItems).err = State.reset.err := rfl
@[simp] theorem resetItems_ovr : (s.resetItems).ovr = State.reset.ovr := rfl
@[simp] theorem resetItems_ecode : (s.resetItems).ecode = State.reset.ecode := rfl
@[simp] theorem resetItems_ecmd : (s.resetItems).ecmd = State.reset.ecmd := rfl
@[simp] theorem resetItems_pend : (s.resetItems).pend = State.reset.pend := rfl
@[simp] theorem resetItems_primPresent : (s.resetItems).primPresent = s.primPresent := rfl
@[simp] theorem resetItems_inReset : (s.resetItems).inReset = s.inReset := rfl
@[simp] theorem resetItems_agenda : (s.resetItems).agenda = s.agenda := rfl
@[simp] theorem resetItems_responses : (s.resetItems).responses = s.responses := rfl
@[simp] theorem resetItems_draws : (s.resetItems).draws = s.draws := rfl

@[simp] theorem assertReset_w : (s.assertReset).w = State.reset.w := rfl
@[simp] theorem assertReset_mem : (s.assertReset).mem = State.reset.mem := rfl
@[simp] theorem assertReset_mkey : (s.assertReset).mkey = State.reset.mkey := rfl
@[simp] theorem assertReset_mprim : (s.assertReset).mprim = State.reset.mprim := rfl
@[simp] theorem assertReset_mvalid : (s.assertReset).mvalid = State.reset.mvalid := rfl
@[simp] theorem assertReset_lprim : (s.assertReset).lprim = State.reset.lprim := rfl
@[simp] theorem assertReset_lvalid : (s.assertReset).lvalid = State.reset.lvalid := rfl
@[simp] theorem assertReset_ieDone : (s.assertReset).ieDone = State.reset.ieDone := rfl
@[simp] theorem assertReset_ieErr : (s.assertReset).ieErr = State.reset.ieErr := rfl
@[simp] theorem assertReset_done : (s.assertReset).done = State.reset.done := rfl
@[simp] theorem assertReset_err : (s.assertReset).err = State.reset.err := rfl
@[simp] theorem assertReset_ovr : (s.assertReset).ovr = State.reset.ovr := rfl
@[simp] theorem assertReset_ecode : (s.assertReset).ecode = State.reset.ecode := rfl
@[simp] theorem assertReset_ecmd : (s.assertReset).ecmd = State.reset.ecmd := rfl
@[simp] theorem assertReset_pend : (s.assertReset).pend = State.reset.pend := rfl
@[simp] theorem assertReset_primPresent : (s.assertReset).primPresent = s.primPresent := rfl
@[simp] theorem assertReset_inReset : (s.assertReset).inReset = true := rfl
@[simp] theorem assertReset_agenda : (s.assertReset).agenda = s.agenda := rfl
@[simp] theorem assertReset_responses : (s.assertReset).responses = s.responses := rfl
@[simp] theorem assertReset_draws : (s.assertReset).draws = s.draws := rfl

@[simp] theorem withFetchWord_w (n v : Nat) : (s.withFetchWord n v).w = s.w := rfl
@[simp] theorem withFetchWord_mem (n v : Nat) : (s.withFetchWord n v).mem = s.mem := rfl
@[simp] theorem withFetchWord_mkey (n v : Nat) : (s.withFetchWord n v).mkey = s.mkey := rfl
@[simp] theorem withFetchWord_mprim (n v : Nat) : (s.withFetchWord n v).mprim = s.mprim := rfl
@[simp] theorem withFetchWord_mvalid (n v : Nat) : (s.withFetchWord n v).mvalid = s.mvalid := rfl
@[simp] theorem withFetchWord_lprim (n v : Nat) : (s.withFetchWord n v).lprim = s.lprim := rfl
@[simp] theorem withFetchWord_lvalid (n v : Nat) : (s.withFetchWord n v).lvalid = s.lvalid := rfl
@[simp] theorem withFetchWord_ieDone (n v : Nat) : (s.withFetchWord n v).ieDone = s.ieDone := rfl
@[simp] theorem withFetchWord_ieErr (n v : Nat) : (s.withFetchWord n v).ieErr = s.ieErr := rfl
@[simp] theorem withFetchWord_done (n v : Nat) : (s.withFetchWord n v).done = s.done := rfl
@[simp] theorem withFetchWord_err (n v : Nat) : (s.withFetchWord n v).err = s.err := rfl
@[simp] theorem withFetchWord_ovr (n v : Nat) : (s.withFetchWord n v).ovr = s.ovr := rfl
@[simp] theorem withFetchWord_ecode (n v : Nat) : (s.withFetchWord n v).ecode = s.ecode := rfl
@[simp] theorem withFetchWord_ecmd (n v : Nat) : (s.withFetchWord n v).ecmd = s.ecmd := rfl
@[simp] theorem withFetchWord_pend (n v : Nat) : (s.withFetchWord n v).pend = some (fetchWord n v) := rfl
@[simp] theorem withFetchWord_primPresent (n v : Nat) : (s.withFetchWord n v).primPresent = s.primPresent := rfl
@[simp] theorem withFetchWord_inReset (n v : Nat) : (s.withFetchWord n v).inReset = false := rfl
@[simp] theorem withFetchWord_agenda (n v : Nat) : (s.withFetchWord n v).agenda = engineNext s.agenda := rfl
@[simp] theorem withFetchWord_responses (n v : Nat) : (s.withFetchWord n v).responses = s.responses := rfl
@[simp] theorem withFetchWord_draws (n v : Nat) : (s.withFetchWord n v).draws = s.draws := rfl

@[simp] theorem clearEffect_w : (clearEffect s).w = tabulate 16 fun _ => 0#32 := rfl
@[simp] theorem clearEffect_mem : (clearEffect s).mem = [] := rfl
@[simp] theorem clearEffect_mkey : (clearEffect s).mkey = tabulate 48 fun _ => 0#8 := rfl
@[simp] theorem clearEffect_mprim : (clearEffect s).mprim = 0#4 := rfl
@[simp] theorem clearEffect_mvalid : (clearEffect s).mvalid = false := rfl
@[simp] theorem clearEffect_lprim : (clearEffect s).lprim = 0#4 := rfl
@[simp] theorem clearEffect_lvalid : (clearEffect s).lvalid = false := rfl
@[simp] theorem clearEffect_ieDone : (clearEffect s).ieDone = s.ieDone := rfl
@[simp] theorem clearEffect_ieErr : (clearEffect s).ieErr = s.ieErr := rfl
@[simp] theorem clearEffect_done : (clearEffect s).done = s.done := rfl
@[simp] theorem clearEffect_err : (clearEffect s).err = s.err := rfl
@[simp] theorem clearEffect_ovr : (clearEffect s).ovr = s.ovr := rfl
@[simp] theorem clearEffect_ecode : (clearEffect s).ecode = s.ecode := rfl
@[simp] theorem clearEffect_ecmd : (clearEffect s).ecmd = s.ecmd := rfl
@[simp] theorem clearEffect_pend : (clearEffect s).pend = s.pend := rfl
@[simp] theorem clearEffect_primPresent : (clearEffect s).primPresent = s.primPresent := rfl
@[simp] theorem clearEffect_inReset : (clearEffect s).inReset = s.inReset := rfl
@[simp] theorem clearEffect_agenda : (clearEffect s).agenda = s.agenda := rfl
@[simp] theorem clearEffect_responses : (clearEffect s).responses = s.responses := rfl
@[simp] theorem clearEffect_draws : (clearEffect s).draws = s.draws := rfl

@[simp] theorem schedule_w (p : Prim) : (schedule p s).w = s.w := rfl
@[simp] theorem schedule_mem (p : Prim) : (schedule p s).mem = s.mem := rfl
@[simp] theorem schedule_mkey (p : Prim) : (schedule p s).mkey = s.keySnapshot := rfl
@[simp] theorem schedule_mprim (p : Prim) : (schedule p s).mprim = p.code := rfl
@[simp] theorem schedule_mvalid (p : Prim) : (schedule p s).mvalid = true := rfl
@[simp] theorem schedule_lprim (p : Prim) : (schedule p s).lprim = s.lprim := rfl
@[simp] theorem schedule_lvalid (p : Prim) : (schedule p s).lvalid = s.lvalid := rfl
@[simp] theorem schedule_ieDone (p : Prim) : (schedule p s).ieDone = s.ieDone := rfl
@[simp] theorem schedule_ieErr (p : Prim) : (schedule p s).ieErr = s.ieErr := rfl
@[simp] theorem schedule_done (p : Prim) : (schedule p s).done = s.done := rfl
@[simp] theorem schedule_err (p : Prim) : (schedule p s).err = s.err := rfl
@[simp] theorem schedule_ovr (p : Prim) : (schedule p s).ovr = s.ovr := rfl
@[simp] theorem schedule_ecode (p : Prim) : (schedule p s).ecode = s.ecode := rfl
@[simp] theorem schedule_ecmd (p : Prim) : (schedule p s).ecmd = s.ecmd := rfl
@[simp] theorem schedule_pend (p : Prim) : (schedule p s).pend = s.pend := rfl
@[simp] theorem schedule_primPresent (p : Prim) : (schedule p s).primPresent = s.primPresent := rfl
@[simp] theorem schedule_inReset (p : Prim) : (schedule p s).inReset = s.inReset := rfl
@[simp] theorem schedule_agenda (p : Prim) : (schedule p s).agenda = s.agenda := rfl
@[simp] theorem schedule_responses (p : Prim) : (schedule p s).responses = s.responses := rfl
@[simp] theorem schedule_draws (p : Prim) : (schedule p s).draws = s.draws := rfl

@[simp] theorem toInternal_w (p : Prim) (g : List Byte → List Word) : (toInternal p g s).w = overlay (tabulate 16 fun _ => 0#32) (g (s.dataBytes (4 * primWords p))) := rfl
@[simp] theorem toInternal_mem (p : Prim) (g : List Byte → List Word) : (toInternal p g s).mem = s.mem := rfl
@[simp] theorem toInternal_mkey (p : Prim) (g : List Byte → List Word) : (toInternal p g s).mkey = s.mkey := rfl
@[simp] theorem toInternal_mprim (p : Prim) (g : List Byte → List Word) : (toInternal p g s).mprim = s.mprim := rfl
@[simp] theorem toInternal_mvalid (p : Prim) (g : List Byte → List Word) : (toInternal p g s).mvalid = s.mvalid := rfl
@[simp] theorem toInternal_lprim (p : Prim) (g : List Byte → List Word) : (toInternal p g s).lprim = p.code := rfl
@[simp] theorem toInternal_lvalid (p : Prim) (g : List Byte → List Word) : (toInternal p g s).lvalid = true := rfl
@[simp] theorem toInternal_ieDone (p : Prim) (g : List Byte → List Word) : (toInternal p g s).ieDone = s.ieDone := rfl
@[simp] theorem toInternal_ieErr (p : Prim) (g : List Byte → List Word) : (toInternal p g s).ieErr = s.ieErr := rfl
@[simp] theorem toInternal_done (p : Prim) (g : List Byte → List Word) : (toInternal p g s).done = s.done := rfl
@[simp] theorem toInternal_err (p : Prim) (g : List Byte → List Word) : (toInternal p g s).err = s.err := rfl
@[simp] theorem toInternal_ovr (p : Prim) (g : List Byte → List Word) : (toInternal p g s).ovr = s.ovr := rfl
@[simp] theorem toInternal_ecode (p : Prim) (g : List Byte → List Word) : (toInternal p g s).ecode = s.ecode := rfl
@[simp] theorem toInternal_ecmd (p : Prim) (g : List Byte → List Word) : (toInternal p g s).ecmd = s.ecmd := rfl
@[simp] theorem toInternal_pend (p : Prim) (g : List Byte → List Word) : (toInternal p g s).pend = s.pend := rfl
@[simp] theorem toInternal_primPresent (p : Prim) (g : List Byte → List Word) : (toInternal p g s).primPresent = s.primPresent := rfl
@[simp] theorem toInternal_inReset (p : Prim) (g : List Byte → List Word) : (toInternal p g s).inReset = s.inReset := rfl
@[simp] theorem toInternal_agenda (p : Prim) (g : List Byte → List Word) : (toInternal p g s).agenda = s.agenda := rfl
@[simp] theorem toInternal_responses (p : Prim) (g : List Byte → List Word) : (toInternal p g s).responses = s.responses := rfl
@[simp] theorem toInternal_draws (p : Prim) (g : List Byte → List Word) : (toInternal p g s).draws = s.draws := rfl

@[simp] theorem toExternal_w (p : Prim) (g : List Word → List Byte) : (toExternal p g s).w = s.w := rfl
@[simp] theorem toExternal_mem (p : Prim) (g : List Word → List Byte) : (toExternal p g s).mem = s.mem.writeBytes dataBase (g (firstWords (primWords p) s.w)) := rfl
@[simp] theorem toExternal_mkey (p : Prim) (g : List Word → List Byte) : (toExternal p g s).mkey = s.mkey := rfl
@[simp] theorem toExternal_mprim (p : Prim) (g : List Word → List Byte) : (toExternal p g s).mprim = s.mprim := rfl
@[simp] theorem toExternal_mvalid (p : Prim) (g : List Word → List Byte) : (toExternal p g s).mvalid = s.mvalid := rfl
@[simp] theorem toExternal_lprim (p : Prim) (g : List Word → List Byte) : (toExternal p g s).lprim = s.lprim := rfl
@[simp] theorem toExternal_lvalid (p : Prim) (g : List Word → List Byte) : (toExternal p g s).lvalid = s.lvalid := rfl
@[simp] theorem toExternal_ieDone (p : Prim) (g : List Word → List Byte) : (toExternal p g s).ieDone = s.ieDone := rfl
@[simp] theorem toExternal_ieErr (p : Prim) (g : List Word → List Byte) : (toExternal p g s).ieErr = s.ieErr := rfl
@[simp] theorem toExternal_done (p : Prim) (g : List Word → List Byte) : (toExternal p g s).done = s.done := rfl
@[simp] theorem toExternal_err (p : Prim) (g : List Word → List Byte) : (toExternal p g s).err = s.err := rfl
@[simp] theorem toExternal_ovr (p : Prim) (g : List Word → List Byte) : (toExternal p g s).ovr = s.ovr := rfl
@[simp] theorem toExternal_ecode (p : Prim) (g : List Word → List Byte) : (toExternal p g s).ecode = s.ecode := rfl
@[simp] theorem toExternal_ecmd (p : Prim) (g : List Word → List Byte) : (toExternal p g s).ecmd = s.ecmd := rfl
@[simp] theorem toExternal_pend (p : Prim) (g : List Word → List Byte) : (toExternal p g s).pend = s.pend := rfl
@[simp] theorem toExternal_primPresent (p : Prim) (g : List Word → List Byte) : (toExternal p g s).primPresent = s.primPresent := rfl
@[simp] theorem toExternal_inReset (p : Prim) (g : List Word → List Byte) : (toExternal p g s).inReset = s.inReset := rfl
@[simp] theorem toExternal_agenda (p : Prim) (g : List Word → List Byte) : (toExternal p g s).agenda = s.agenda := rfl
@[simp] theorem toExternal_responses (p : Prim) (g : List Word → List Byte) : (toExternal p g s).responses = s.responses := rfl
@[simp] theorem toExternal_draws (p : Prim) (g : List Word → List Byte) : (toExternal p g s).draws = s.draws := rfl

/-! ## Views -/

@[simp] theorem retire_busy : s.retire.busy = false := rfl
@[simp] theorem finish_busy : s.finish.busy = false := rfl
@[simp] theorem accept_busy (c : Word) : (s.accept c).busy = true := rfl
@[simp] theorem reject_busy (e : ErrorCode) (c : Word) : (s.reject e c).busy = s.busy := rfl
@[simp] theorem respond_busy (r : Answer) : (s.respond r).busy = s.busy := rfl
@[simp] theorem overrun_busy : s.overrun.busy = s.busy := rfl

end Sys2Proof.Machine
end

