-- ==== Sys2Proof/Laws/Ops.lean ====
section
/-! SUPPORT. What the shared operations can do: the requirements of a command, the frame of a meaning, a `CMD` write. -/

namespace Sys2Proof.Machine

theorem firstFailing_none {needs : List (Bool × ErrorCode)} (h : ∀ n ∈ needs, n.1 = true) : firstFailing needs = none := by
  induction needs with
  | nil => rfl
  | cons n rest ih =>
    obtain ⟨holds, e⟩ := n
    have hn : holds = true := h (holds, e) List.mem_cons_self
    simp only [firstFailing, hn, if_true]
    exact ih fun m hm => h m (List.mem_cons_of_mem _ hm)

/-- A meaning runs to completion when its requirements hold. -/
theorem runCommand_completes {c : Word} {needs : List (Bool × ErrorCode)} {effect s : State}
    (h : firstFailing needs = none) : runCommand c needs effect s = .next effect.finish := by simp [runCommand, h]

/-- A meaning records the code of its first requirement that fails, and nothing else but that the command ends. -/
theorem runCommand_rejects {c : Word} {needs : List (Bool × ErrorCode)} {effect s : State} {e : ErrorCode}
    (h : firstFailing needs = some e) : runCommand c needs effect s = .next (s.reject e c).retire := by
  simp [runCommand, h]

/-- All a meaning can do. -/
theorem runCommand_cases (c : Word) (needs : List (Bool × ErrorCode)) (effect s : State) :
    (∃ e, firstFailing needs = some e ∧ runCommand c needs effect s = .next (s.reject e c).retire) ∨
      (firstFailing needs = none ∧ runCommand c needs effect s = .next effect.finish) := by
  cases h : firstFailing needs with
  | none => exact .inr ⟨rfl, runCommand_completes h⟩
  | some e => exact .inl ⟨e, rfl, runCommand_rejects h⟩

/-- A code that is raised is the code of one of the requirements. -/
theorem firstFailing_mem {needs : List (Bool × ErrorCode)} {e : ErrorCode} (h : firstFailing needs = some e) :
    ∃ n ∈ needs, n.1 = false ∧ n.2 = e := by
  induction needs with
  | nil => simp [firstFailing] at h
  | cons n rest ih =>
    obtain ⟨holds, c⟩ := n
    cases holds
    · exact ⟨(false, c), List.mem_cons_self, rfl, by simpa [firstFailing] using h⟩
    · obtain ⟨n, hn, h'⟩ := ih (by simpa [firstFailing] using h)
      exact ⟨n, List.mem_cons_of_mem _ hn, h'⟩

/-- The requirements of a command raise no `E_NONE`, so neither does the command. -/
theorem runCommand_frame {c : Word} {needs : List (Bool × ErrorCode)} {effect s : State}
    (h : ∀ n ∈ needs, n.2 ≠ .eNone) :
    (∃ e, e ≠ .eNone ∧ runCommand c needs effect s = .next (s.reject e c).retire) ∨
      runCommand c needs effect s = .next effect.finish := by
  rcases runCommand_cases c needs effect s with ⟨e, hf, he⟩ | ⟨-, he⟩
  · obtain ⟨n, hn, -, rfl⟩ := firstFailing_mem hf
    exact .inl ⟨n.2, h n hn, he⟩
  · exact .inr he

/-- The only outcomes of a `CMD` write (60_exceptions.md R361). -/
theorem issue_cases (s : State) (c : Word) :
    (s.busy = true ∧ s.issue c = s.overrun) ∨
      (s.busy = false ∧ ∃ e, issueCheck s c = some e ∧ s.issue c = s.reject e c) ∨
      (s.busy = false ∧ issueCheck s c = none ∧ s.issue c = s.accept c) := by
  unfold State.issue
  cases hb : s.busy
  · cases h : issueCheck s c <;> simp
  · simp

/-- The checks look at the build and the tags only. -/
theorem issueCheck_congr {s t : State} (c : Word) (h1 : s.primPresent = t.primPresent) (h2 : s.lvalid = t.lvalid)
    (h3 : s.lprim = t.lprim) (h4 : s.mvalid = t.mvalid) (h5 : s.mprim = t.mprim) : issueCheck s c = issueCheck t c := by
  simp [issueCheck, tagCheck, h1, h2, h3, h4, h5]

/-- No check gives `E_NONE` (60_exceptions.md R340). -/
theorem encodingCheck_ne_eNone (cap : Byte) (c : Word) : encodingCheck cap c ≠ some .eNone := by
  simp only [encodingCheck]
  split_ifs <;> simp

theorem issueCheck_ne_eNone (s : State) (c : Word) : issueCheck s c ≠ some .eNone := by
  have := encodingCheck_ne_eNone s.primPresent c
  simp only [issueCheck, tagCheck]
  split
  · simp_all
  · split_ifs <;> simp

end Sys2Proof.Machine
end

