-- ==== Sys2Proof/Laws/PerInstr.lean ====
section
/-! SUPPORT. Statements about every command as syntax, one lemma per constructor. EncodedRow: the encoder's word of a command
agrees with the command's row of 30_encoding.md R92. -/

namespace Sys2Proof.Laws.EncodedRow

/-- The encoded word has the row's match under the row's mask. -/
def Statement (i : Instr) : Prop := i.rowMatches (encode i) = true

/-- A word given by its fields matches a row whose match is one as well, when the fields under the mask agree. -/
theorem of_fields {op prim : Nibble} {start count : Byte} {var : Nibble} {mask want : Word}
    (h : ∀ i, i < 32 → ((commandWord op prim start count var).getLsbD i && mask.getLsbD i) = want.getLsbD i) :
    (commandWord op prim start count var &&& mask == want) = true := by
  rw [beq_iff_eq]
  refine BitVec.eq_of_getLsbD_eq fun i hi => ?_
  rw [BitVec.getLsbD_and]
  exact h i hi

theorem nop : Statement .nop := rfl
theorem clear : Statement .clear := rfl
theorem tointGift : Statement .tointGift := rfl
theorem tointSkinny : Statement .tointSkinny := rfl
theorem tointAscon : Statement .tointAscon := rfl
theorem tointGrain : Statement .tointGrain := rfl
theorem tointSparkle : Statement .tointSparkle := rfl
theorem tointJambu : Statement .tointJambu := rfl
theorem tointPhoton : Statement .tointPhoton := rfl
theorem tointXoodoo : Statement .tointXoodoo := rfl
theorem toextGift : Statement .toextGift := rfl
theorem toextSkinny : Statement .toextSkinny := rfl
theorem toextAscon : Statement .toextAscon := rfl
theorem toextGrain : Statement .toextGrain := rfl
theorem toextSparkle : Statement .toextSparkle := rfl
theorem toextJambu : Statement .toextJambu := rfl
theorem toextPhoton : Statement .toextPhoton := rfl
theorem toextXoodoo : Statement .toextXoodoo := rfl
theorem schedGift : Statement .schedGift := rfl
theorem schedSkinny : Statement .schedSkinny := rfl
theorem schedJambu : Statement .schedJambu := rfl
theorem roundsGift (start count : Byte) : Statement (.roundsGift start count) := by
  refine of_fields fun i hi => ?_
  rw [commandWord_getLsbD]
  interval_cases i <;> simp [Instr.matchAndMask, Prim.code]
theorem roundsSkinny (start count : Byte) : Statement (.roundsSkinny start count) := by
  refine of_fields fun i hi => ?_
  rw [commandWord_getLsbD]
  interval_cases i <;> simp [Instr.matchAndMask, Prim.code]
theorem roundsAscon (start count : Byte) : Statement (.roundsAscon start count) := by
  refine of_fields fun i hi => ?_
  rw [commandWord_getLsbD]
  interval_cases i <;> simp [Instr.matchAndMask, Prim.code]
theorem roundsGrain (count : Byte) (width : GrainWidth) (mode : GrainMode) : Statement (.roundsGrain count width mode) := by
  cases width <;> cases mode <;> refine of_fields fun i hi => ?_
  all_goals
    rw [commandWord_getLsbD]
    interval_cases i <;> simp [Instr.matchAndMask, Prim.code, grainVar]
theorem roundsSparkle (start count : Byte) (b : Branches) : Statement (.roundsSparkle start count b) := by
  cases b <;> refine of_fields fun i hi => ?_
  all_goals
    rw [commandWord_getLsbD]
    interval_cases i <;> simp [Instr.matchAndMask, Prim.code, Branches.var]
theorem roundsJambu (count : Byte) : Statement (.roundsJambu count) := by
  refine of_fields fun i hi => ?_
  rw [commandWord_getLsbD]
  interval_cases i <;> simp [Instr.matchAndMask, Prim.code]
theorem roundsPhoton (start count : Byte) : Statement (.roundsPhoton start count) := by
  refine of_fields fun i hi => ?_
  rw [commandWord_getLsbD]
  interval_cases i <;> simp [Instr.matchAndMask, Prim.code]
theorem roundsXoodoo (start count : Byte) : Statement (.roundsXoodoo start count) := by
  refine of_fields fun i hi => ?_
  rw [commandWord_getLsbD]
  interval_cases i <;> simp [Instr.matchAndMask, Prim.code]

end Sys2Proof.Laws.EncodedRow
end

