-- ==== Sys2Proof/Laws/Step.lean ====
section
/-! SUPPORT. What a meaning, an engine turn, a host access and a step can do, each said once. -/

namespace Sys2Proof.Machine

/-- The effect of a command on the state, before completion sets `DONE` and ends it. -/
def effectOf : Instr → State → State
  | .nop, s => s
  | .clear, s => clearEffect s
  | .tointGift, s => toInternal .gift inGift s
  | .tointSkinny, s => toInternal .skinny inSkinny s
  | .tointAscon, s => toInternal .ascon inAscon s
  | .tointGrain, s => toInternal .grain inGrain s
  | .tointSparkle, s => toInternal .sparkle inSparkle s
  | .tointJambu, s => toInternal .jambu inJambu s
  | .tointPhoton, s => toInternal .photon inPhoton s
  | .tointXoodoo, s => toInternal .xoodoo inXoodoo s
  | .toextGift, s => toExternal .gift outGift s
  | .toextSkinny, s => toExternal .skinny outSkinny s
  | .toextAscon, s => toExternal .ascon outAscon s
  | .toextGrain, s => toExternal .grain outGrain s
  | .toextSparkle, s => toExternal .sparkle outSparkle s
  | .toextJambu, s => toExternal .jambu outJambu s
  | .toextPhoton, s => toExternal .photon outPhoton s
  | .toextXoodoo, s => toExternal .xoodoo outXoodoo s
  | .schedGift, s => schedule .gift s
  | .schedSkinny, s => schedule .skinny s
  | .schedJambu, s => schedule .jambu s
  | .roundsGift start count, s => { s with w := giftRounds s.mkey start.toNat count.toNat s.w }
  | .roundsSkinny start count, s =>
    { s with w := skinnyRounds (skinnyTweakeyOf s.key s.mkey) start.toNat count.toNat s.w }
  | .roundsAscon start count, s => { s with w := asconRounds start.toNat count.toNat s.w }
  | .roundsGrain count width mode, s => { s with w := grainRounds width mode count.toNat s.w }
  | .roundsSparkle start count b, s => { s with w := sparkleRounds b.number start.toNat count.toNat s.w }
  | .roundsJambu count, s => { s with w := jambuRounds s.mkey count.toNat s.w }
  | .roundsPhoton start count, s => { s with w := photonRounds start.toNat count.toNat s.w }
  | .roundsXoodoo start count, s => { s with w := xoodooRounds start.toNat count.toNat s.w }

/-- All a command can do: it is rejected, or it has its effect and completes. -/
theorem exec_cases (i : Instr) (s : State) :
    (∃ e, e ≠ .eNone ∧ exec i s = .next (s.reject e (encode i)).retire) ∨ exec i s = .next (effectOf i s).finish := by
  cases i
  case nop => exact .inr rfl
  case clear => exact .inr rfl
  all_goals (refine runCommand_frame ?_; simp [needPresent, needLayout, needMaterial, needRounds])

/-- Every command answers a next state (60_exceptions.md R376). -/
theorem exec_next (i : Instr) (s : State) : ∃ t, exec i s = .next t := by
  rcases exec_cases i s with ⟨e, -, h⟩ | h <;> exact ⟨_, h⟩

/-- All an engine turn can do. -/
theorem engineTurn_cases (s : State) :
    engineTurn s = .next s ∨
      ∃ c, s.inReset = false ∧ s.pend = some c ∧
        ((∃ i, decode s.primPresent c = .ok i ∧ engineTurn s = exec i s) ∨
          ∃ e, decode s.primPresent c = .error e ∧ engineTurn s = .next (s.reject e c).retire) := by
  unfold engineTurn
  cases hr : s.inReset
  · cases hp : s.pend with
    | none => simp
    | some c => cases hd : decode s.primPresent c <;> simp_all
  · simp

/-- A host read changes the response list and the free-value counter, nothing else (20_memory.md R52). -/
theorem hostRead_frame (s : State) (host : Nat) (off : BitVec 9) (bytes : Nat) :
    ∃ r d, hostRead s host off bytes = { s with responses := r :: s.responses, draws := d } := by
  unfold hostRead readWindow
  repeat' split
  all_goals exact ⟨_, _, rfl⟩

/-- The offsets of the byte buffers are those of the address map (20_memory.md R54). -/
theorem regionOf_buffer {off a : Nat} (h : regionOf off = .data a ∨ regionOf off = .key a) :
    a = off ∧ 0x100 ≤ off ∧ off < 0x170 := by
  unfold regionOf at h
  repeat' split at h
  all_goals simp_all
  all_goals omega

/-- The offsets of the control registers are those of the address map (20_memory.md R54). -/
theorem regionOf_control {off : Nat} :
    (regionOf off = .ctrl → off = 0x008) ∧ (regionOf off = .status → off = 0x00C) ∧ (regionOf off = .cmd → off = 0x010) := by
  unfold regionOf
  repeat' split
  all_goals simp_all

/-- All a host write can do beside its response: nothing, or, outside reset and with a legal access, one of six effects. -/
theorem hostWrite_cases (s : State) (host : Nat) (off : BitVec 9) (bytes : Nat) (v : Word) :
    ∃ t r, hostWrite s host off bytes v = t.respond r ∧
      (t = s ∨ s.inReset = false ∧ bytes = 4 ∧ off.toNat % 4 = 0 ∧
        ((off.toNat = 0x008 ∧ t = s.writeCtrl v) ∨ (off.toNat = 0x00C ∧ t = s.writeStatus v) ∨
          (s.busy = true ∧ t = s.overrun) ∨
          (off.toNat = 0x010 ∧ s.busy = false ∧ ∃ e, issueCheck s v = some e ∧ t = s.reject e v) ∨
          (off.toNat = 0x010 ∧ s.busy = false ∧ issueCheck s v = none ∧ t = s.accept v) ∨
          (s.busy = false ∧ 0x100 ≤ off.toNat ∧ off.toNat < 0x170 ∧
            t = { s with mem := s.mem.writeWord off.toNat v }))) := by
  rcases Bool.eq_false_or_eq_true s.inReset with hr | hr
  · exact ⟨s, ⟨host, .writeDone⟩, by simp [hostWrite, hr], .inl rfl⟩
  · cases hl : legalAccess off bytes with
    | false => exact ⟨s, ⟨host, .writeError .busError⟩, by simp [hostWrite, hr, hl], .inl rfl⟩
    | true =>
      refine ⟨writeRegion s v (regionOf off.toNat), ⟨host, .writeDone⟩, by simp [hostWrite, hr, hl], ?_⟩
      obtain ⟨hb4, hoff⟩ : bytes = 4 ∧ off.toNat % 4 = 0 := by simpa [legalAccess] using hl
      obtain ⟨hctrl, hstatus, hcmd⟩ := regionOf_control (off := off.toNat)
      have buffer : 0x100 ≤ off.toNat → off.toNat < 0x170 →
          (s.busy = true ∧ writeBuffer s off.toNat v = s.overrun) ∨ (s.busy = false ∧ 0x100 ≤ off.toNat ∧
            off.toNat < 0x170 ∧ writeBuffer s off.toNat v = { s with mem := s.mem.writeWord off.toNat v }) :=
        fun h1 h2 => by cases hb : s.busy <;> simp [writeBuffer, hb, h1, h2]
      cases hreg : regionOf off.toNat with
      | ctrl => exact .inr ⟨hr, hb4, hoff, .inl ⟨hctrl hreg, rfl⟩⟩
      | status => exact .inr ⟨hr, hb4, hoff, .inr (.inl ⟨hstatus hreg, rfl⟩)⟩
      | cmd =>
        refine .inr ⟨hr, hb4, hoff, .inr (.inr ?_)⟩
        rcases issue_cases s v with h | ⟨hb, h⟩ | h
        · exact .inl h
        · exact .inr (.inl ⟨hcmd hreg, hb, h⟩)
        · exact .inr (.inr (.inl ⟨hcmd hreg, h⟩))
      | data a =>
        obtain ⟨rfl, h1, h2⟩ := regionOf_buffer (.inl hreg)
        refine .inr ⟨hr, hb4, hoff, .inr (.inr ?_)⟩
        rcases buffer h1 h2 with h | h
        · exact .inl h
        · exact .inr (.inr (.inr h))
      | key a =>
        obtain ⟨rfl, h1, h2⟩ := regionOf_buffer (.inr hreg)
        refine .inr ⟨hr, hb4, hoff, .inr (.inr ?_)⟩
        rcases buffer h1 h2 with h | h
        · exact .inl h
        · exact .inr (.inr (.inr h))
      | _ => exact .inl rfl

/-- A step is a turn: the engine's when none is left, else the next of the agenda. -/
theorem step_cases (s : State) :
    (s.agenda = [] ∧ step s = engineTurn s) ∨
      ∃ t rest, s.agenda = t :: rest ∧ step s = turn { s with agenda := rest } t := by
  unfold step
  cases h : s.agenda with
  | nil => simp
  | cons t rest => simp

end Sys2Proof.Machine
end

