-- ==== Sys2Proof/Laws/Run.lean ====
section
/-! SUPPORT. Runs: that no command and no turn depends on the model's own fields, and the readings of a run's end and of its
observation. -/

namespace Sys2Proof.Machine

/-- `s` with the model's own fields replaced. -/
def State.withOwn (s : State) (a : List Turn) (r : List Answer) (d : Nat) : State :=
  { s with agenda := a, responses := r, draws := d }

/-- The frame of a meaning neither reads nor changes the model's own fields, if the effect does not. -/
theorem runCommand_withOwn (c : Word) (needs : List (Bool × ErrorCode)) (e s : State) (a r d) :
   ∀ t, runCommand c needs e s = .next t → runCommand c needs (e.withOwn a r d) (s.withOwn a r d) = .next (t.withOwn a r d) := by
  intro t h
  unfold runCommand at h ⊢
  split at h <;> cases h <;> rfl

/-- No command reads or changes the model's own fields. -/
theorem exec_withOwn (i : Instr) (s t : State) (a : List Turn) (r : List Answer) (d : Nat) (h : exec i s = .next t) :
    exec i (s.withOwn a r d) = .next (t.withOwn a r d) := by
  cases i
  case nop => exact runCommand_withOwn (encode .nop) [] s s a r d t h
  case clear => exact runCommand_withOwn (encode .clear) [] (clearEffect s) s a r d t h
  all_goals exact runCommand_withOwn _ _ _ s a r d t h

/-- The engine's turn neither reads nor changes the model's own fields. -/
theorem engineTurn_withOwn (s t : State) (a : List Turn) (r : List Answer) (d : Nat) (h : engineTurn s = .next t) :
    engineTurn (s.withOwn a r d) = .next (t.withOwn a r d) := by
  unfold engineTurn at h ⊢
  show (if s.inReset = true then _ else match s.pend with | none => _ | some c => match decode s.primPresent c with | .ok i => _ | .error e => _) = _
  split
  · rename_i hr; rw [if_pos hr] at h; cases h; rfl
  · rename_i hr; rw [if_neg hr] at h
    cases hp : s.pend with
    | none => simp only [hp] at h; cases h; rfl
    | some c =>
      simp only [hp] at h
      simp only
      cases hd : decode s.primPresent c with
      | ok i => simp only [hd] at h; exact exec_withOwn i s t a r d h
      | error e => simp only [hd] at h; cases h; rfl

/-- The engine's turn keeps the model's own fields. -/
theorem engineTurn_own (s t : State) (h : engineTurn s = .next t) : t.agenda = s.agenda ∧ t.responses = s.responses ∧ t.draws = s.draws := by
  have := engineTurn_withOwn s t s.agenda s.responses s.draws h
  rw [show s.withOwn s.agenda s.responses s.draws = s from rfl, h] at this
  have := Host.Outcome.next.inj this
  rw [this]; exact ⟨rfl, rfl, rfl⟩

/-- The engine's turn answers a next state (60_exceptions.md R376). -/
theorem engineTurn_next (s : State) : ∃ t, engineTurn s = .next t := by
  rcases engineTurn_cases s with h | ⟨c, -, -, ⟨i, -, h⟩ | ⟨e, -, h⟩⟩
  · exact ⟨_, h⟩
  · obtain ⟨t, ht⟩ := exec_next i s; exact ⟨t, h.trans ht⟩
  · exact ⟨_, h⟩

/-- No turn changes the turns to come. -/
theorem turn_agenda (s t : State) (x : Turn) (h : turn s x = .next t) : t.agenda = s.agenda := by
  cases x with
  | read host off b => cases h; obtain ⟨r, d, e⟩ := hostRead_frame s host off b; rw [e]
  | write host off b v =>
    cases h
    obtain ⟨u, r, e, hc⟩ := hostWrite_cases s host off b v
    rw [e]
    rcases hc with rfl | ⟨-, -, -, hc⟩
    · rfl
    · rcases hc with ⟨-, rfl⟩ | ⟨-, rfl⟩ | ⟨-, rfl⟩ | ⟨-, -, _, -, rfl⟩ | ⟨-, -, -, rfl⟩ | ⟨-, -, -, rfl⟩ <;> rfl
  | engine => exact (engineTurn_own s t h).1
  | assertReset => cases h; rfl
  | releaseReset => cases h; simp only [State.releaseReset]; split <;> rfl

/-- `runOver` decides the end of a run. -/
theorem runOver_iff (host : Nat) (s : State) : s.runOver host = true ↔ RunEnds host s := by
  simp only [State.runOver, RunEnds, Bool.and_eq_true, Bool.not_eq_true', List.any_eq_false]
  refine and_congr Iff.rfl (forall₂_congr fun t _ => ?_)
  cases t with
  | read h off b =>
     simp [Turn.isAccessOf]
  | write h off b v => simp [Turn.isAccessOf]; exact ⟨fun hh _ _ _ e => absurd e hh, fun hh e => hh _ _ _ e rfl rfl rfl⟩
  | _ => simp [Turn.isAccessOf]

/-- The two readings of the values of a host's reads agree. -/
theorem readValues_eq (host : Nat) (s : State) : s.readValues host = readsOf host s.responses := by
  unfold State.readValues readsOf
  generalize s.responses.reverse = l
  induction l with
  | nil => rfl
  | cons a l ih =>
    by_cases h : a.host = host
    · simp only [List.flatMap_cons, h, if_true, ← ih, List.filter_cons, beq_self_eq_true]
      cases a.response <;> rfl
    · simp [h, ih]

/-- One more answer adds what the observation includes of it, if it is the host's. -/
theorem readsOf_cons (host : Nat) (a : Answer) (l : List Answer) : readsOf host (a :: l) = readsOf host l ++ (if a.host = host then a.response.observed else []) := by
  simp only [readsOf, List.reverse_cons, List.flatMap_append, List.flatMap_cons, List.flatMap_nil, List.append_nil]
  split <;> [skip; rfl]
  cases a.response <;> rfl

/-- A host write neither reads nor changes the model's own fields, but for its answer. -/
theorem writeRegion_withOwn (s : State) (v : Word) (g : Region) (a r d) : writeRegion (s.withOwn a r d) v g = (writeRegion s v g).withOwn a r d := by
  cases g <;> try rfl
  · show State.issue (s.withOwn a r d) v = (State.issue s v).withOwn a r d
    unfold State.issue
    show (if s.busy then _ else _) = _
    split
    · rfl
    · show (match issueCheck s v with | some e => _ | none => _) = _
      cases issueCheck s v <;> rfl
  all_goals
    simp only [writeRegion, writeBuffer]
    show (if s.busy then _ else _) = _
    split <;> rfl

/-- A turn does the same whatever the model's own fields hold, and keeps two records of answers alike for a host. -/
theorem turn_withOwn (host : Nat) (s t : State) (x : Turn) (a : List Turn) (r : List Answer) (d : Nat) (h : turn s x = .next t)
    (hr : readsOf host r = readsOf host s.responses) :
    ∃ r' d', turn (s.withOwn a r d) x = .next (t.withOwn a r' d') ∧ readsOf host r' = readsOf host t.responses := by
  cases x with
  | engine => exact ⟨r, d, engineTurn_withOwn s t a r d h, by rw [(engineTurn_own s t h).2.1]; exact hr⟩
  | assertReset => cases h; exact ⟨r, d, rfl, hr⟩
  | releaseReset =>
    cases h
    cases hi : s.inReset
    · refine ⟨r, d, ?_, ?_⟩ <;> simp [turn, State.releaseReset, State.withOwn, hi, hr]
    · refine ⟨r, d, ?_, ?_⟩
      · simp [turn, State.releaseReset, State.withOwn, hi, State.resetItems]
      · simp [State.releaseReset, hi, State.resetItems, hr]
  | read h' off b =>
    cases h
    simp only [turn, hostRead, readWindow]
    simp only [show (s.withOwn a r d).inReset = s.inReset from rfl, show (s.withOwn a r d).busy = s.busy from rfl]
    repeat' split
    · exact ⟨⟨h', .readData 0#32⟩ :: r, d, rfl, by simp only [State.respond]; rw [readsOf_cons, readsOf_cons, hr]⟩
    · exact ⟨⟨h', .freeData (Config.freeRead d)⟩ :: r, d + 1, rfl, by simp only [State.respond]; rw [readsOf_cons, readsOf_cons, hr]; rfl⟩
    · refine ⟨⟨h', .readData (readRegion s (regionOf off.toNat))⟩ :: r, d, ?_, by simp only [State.respond]; rw [readsOf_cons, readsOf_cons, hr]⟩
      have : readRegion (s.withOwn a r d) (regionOf off.toNat) = readRegion s (regionOf off.toNat) := by cases regionOf off.toNat <;> rfl
      rw [this]; rfl
    · exact ⟨⟨h', .readError .busError 0#32⟩ :: r, d, rfl, by simp only [State.respond]; rw [readsOf_cons, readsOf_cons, hr]⟩
  | write h' off b v =>
    cases h
    simp only [turn, hostWrite]
    simp only [show (s.withOwn a r d).inReset = s.inReset from rfl]
    repeat' split
    · exact ⟨⟨h', .writeDone⟩ :: r, d, rfl, by simp only [State.respond]; rw [readsOf_cons, readsOf_cons, hr]⟩
    · refine ⟨⟨h', .writeDone⟩ :: r, d, ?_, ?_⟩
      · rw [writeRegion_withOwn]; rfl
      · have : (writeRegion s v (regionOf off.toNat)).responses = s.responses := by
          have := writeRegion_withOwn s v (regionOf off.toNat) s.agenda s.responses s.draws
          rw [show s.withOwn s.agenda s.responses s.draws = s from rfl] at this
          rw [this]; rfl
        simp only [State.respond]; rw [readsOf_cons, readsOf_cons, hr, this]
    · exact ⟨⟨h', .writeError .busError⟩ :: r, d, rfl, by simp only [State.respond]; rw [readsOf_cons, readsOf_cons, hr]⟩

/-- The observation depends on the record of answers through the host's reads alone. -/
theorem observation_withOwn (host : Nat) (s : State) (a r d) (hr : readsOf host r = readsOf host s.responses) : (s.withOwn a r d).observation host = s.observation host := by
  have h : (s.withOwn a r d).readValues host = s.readValues host := by rw [readValues_eq, readValues_eq]; exact hr
  simp only [State.observation, h]
  rfl

end Sys2Proof.Machine
end

