-- ==== Sys2Proof/Tests/Slice0.lean ====
section
/-! SUPPORT. Tests of the model against words, examples and vectors written out in spec/, then one witness for the hypotheses
of each statement of Certificates/Slice0/Obligations.lean. -/

namespace Sys2Proof.Tests

open Sys2Proof.Machine

/-! ## Small states -/

/-- `DATA[i] = i` for i = 0..63 (95_test_vectors.md, notation). -/
def dataRamp : Memory := Memory.writeBytes [] 0x100 ((List.range 64).map fun i => BitVec.ofNat 8 i)

/-- `MKEY[i] = 0x80 + i` for i = 0..15, then 0: the snapshot of KEY = 80..8f (95_test_vectors.md, notation). -/
def keyRamp : Material := tabulate 48 fun i => if i.val < 16 then BitVec.ofNat 8 (0x80 + i.val) else 0#8

/-- A word file that begins with `vs` and goes on with 0. -/
def wordsOf (vs : List Word) : Words := overlay (tabulate 16 fun _ => 0#32) vs

/-- Words `LE32` of the bytes 0, 1, 2, … (vector V-L3). -/
def wordRamp : Words :=
  tabulate 16 fun k => le32 (BitVec.ofNat 8 (4 * k.val)) (BitVec.ofNat 8 (4 * k.val + 1)) (BitVec.ofNat 8 (4 * k.val + 2))
    (BitVec.ofNat 8 (4 * k.val + 3))

/-- After `TOINT.p`, and after `SCHED.p` with the material `m` when p is keyed. -/
def started (p : Prim) (w : Words) (m : Material) : State :=
  { State.reset with
    w := w
    lprim := p.code
    lvalid := true
    mkey := if p.keyed then m else State.reset.mkey
    mprim := if p.keyed then p.code else 0#4
    mvalid := p.keyed }

/-- The tweakey of vector V-SK1. -/
def skinnyKey : List Byte :=
  [0xdf#8, 0x88#8, 0x95#8, 0x48#8, 0xcf#8, 0xc7#8, 0xea#8, 0x52#8, 0xd2#8, 0x96#8, 0x33#8, 0x93#8, 0x01#8, 0x79#8, 0x74#8, 0x49#8] ++
  [0xab#8, 0x58#8, 0x8a#8, 0x34#8, 0xa4#8, 0x7f#8, 0x1a#8, 0xb2#8, 0xdf#8, 0xe9#8, 0xc8#8, 0x29#8, 0x3f#8, 0xbe#8, 0xa9#8, 0xa5#8] ++
  [0xab#8, 0x1a#8, 0xfa#8, 0xc2#8, 0x61#8, 0x10#8, 0x12#8, 0xcd#8, 0x8c#8, 0xef#8, 0x95#8, 0x26#8, 0x18#8, 0xc3#8, 0xeb#8, 0xe8#8]

/-- Vector V-SK1's setup. -/
def skinnyStart : State :=
  { started .skinny (wordsOf [0x664b99a3#32, 0x45a385ad#32, 0x2be9449f#32, 0xcb50f508#32])
      (tabulate 48 fun i => skinnyKey.getD i.val 0#8) with
    mem := Memory.writeBytes [] 0x140 skinnyKey }

/-- The first n words of the state a step answers. -/
def wordsAfter (n : Nat) : Result → List Word
  | .next t => firstWords n t.w
  | .fault _ => []
  | .refused _ => []

/-- `STATUS` in the state a step answers. -/
def statusAfter : Result → Option Word
  | .next t => some t.status
  | .fault _ => none
  | .refused _ => none

/-- The bytes of `DATA` in the state a step answers. -/
def dataAfter (n : Nat) : Result → List Byte
  | .next t => t.dataBytes n
  | .fault _ => []
  | .refused _ => []

/-- The state a step answers. -/
def answer : Result → Option State
  | .next t => some t
  | .fault _ => none
  | .refused _ => none

/-- `s` with a command in flight. -/
def flying (s : State) (c : Word) : State := { s with pend := some c }

/-- `s` with one turn to come. -/
def facing (s : State) (t : Turn) : State := { s with agenda := [t] }

/-! ## WellFormed refuses an ill-formed term at each check (30_encoding.md R86) -/

theorem test_illformed_gift : (Instr.roundsGift 1#8 40#8).wellFormed = false := by decide
theorem test_illformed_skinny : (Instr.roundsSkinny 40#8 1#8).wellFormed = false := by decide
theorem test_illformed_ascon : (Instr.roundsAscon 0#8 13#8).wellFormed = false := by decide
theorem test_illformed_photon : (Instr.roundsPhoton 12#8 1#8).wellFormed = false := by decide
theorem test_illformed_xoodoo : (Instr.roundsXoodoo 255#8 255#8).wellFormed = false := by decide
theorem test_illformed_grain_words : (Instr.roundsGrain 9#8 .w32 .gen).wellFormed = false := by decide
theorem test_illformed_grain_halves : (Instr.roundsGrain 17#8 .w16 .init).wellFormed = false := by decide
theorem test_wellformed_at_the_limits :
    (Instr.roundsGift 1#8 39#8).wellFormed = true ∧ (Instr.roundsSkinny 40#8 0#8).wellFormed = true ∧
      (Instr.roundsAscon 12#8 0#8).wellFormed = true ∧ (Instr.roundsPhoton 0#8 12#8).wellFormed = true ∧
      (Instr.roundsXoodoo 5#8 7#8).wellFormed = true ∧ (Instr.roundsGrain 8#8 .w32 .gen).wellFormed = true ∧
      (Instr.roundsGrain 16#8 .w16 .init).wellFormed = true ∧ (Instr.roundsSparkle 255#8 255#8 .b6).wellFormed = true ∧
      (Instr.roundsJambu 255#8).wellFormed = true := by decide

/-! ## Decoding, words written out from 30_encoding.md R80, R82, R83, R85, R92 -/

theorem test_decode_control :
    decodeTableWord 32 0x00000000 = some .nop ∧ decodeTableWord 32 0x00000001 = some .clear ∧
      decodeTableWord 32 0x00000004 = some .schedGift ∧ decodeTableWord 32 0x00000014 = some .schedSkinny ∧
      decodeTableWord 32 0x00000054 = some .schedJambu := by decide
theorem test_decode_toint :
    decodeTableWord 32 0x00000002 = some .tointGift ∧ decodeTableWord 32 0x00000012 = some .tointSkinny ∧
      decodeTableWord 32 0x00000022 = some .tointAscon ∧ decodeTableWord 32 0x00000032 = some .tointGrain ∧
      decodeTableWord 32 0x00000042 = some .tointSparkle ∧ decodeTableWord 32 0x00000052 = some .tointJambu ∧
      decodeTableWord 32 0x00000062 = some .tointPhoton ∧ decodeTableWord 32 0x00000072 = some .tointXoodoo := by decide
theorem test_decode_toext :
    decodeTableWord 32 0x00000003 = some .toextGift ∧ decodeTableWord 32 0x00000013 = some .toextSkinny ∧
      decodeTableWord 32 0x00000023 = some .toextAscon ∧ decodeTableWord 32 0x00000033 = some .toextGrain ∧
      decodeTableWord 32 0x00000043 = some .toextSparkle ∧ decodeTableWord 32 0x00000053 = some .toextJambu ∧
      decodeTableWord 32 0x00000063 = some .toextPhoton ∧ decodeTableWord 32 0x00000073 = some .toextXoodoo := by decide
/-- RSV, VAR, COUNT, START, PRIM, OP from the left, bit by bit. -/
theorem test_decode_rounds_bits :
    decode 0xFF#8 0b0000_0000_00100111_00000001_0000_0101#32 = .ok (.roundsGift 1#8 39#8) ∧
      decode 0xFF#8 0b0000_0000_00000001_00100111_0001_0101#32 = .ok (.roundsSkinny 39#8 1#8) ∧
      decode 0xFF#8 0b0000_0000_00000111_00000101_0010_0101#32 = .ok (.roundsAscon 5#8 7#8) ∧
      decode 0xFF#8 0b0000_0011_00000100_00000000_0011_0101#32 = .ok (.roundsGrain 4#8 .w16 .init) ∧
      decode 0xFF#8 0b0000_0010_00000010_00000000_0011_0101#32 = .ok (.roundsGrain 2#8 .w32 .init) ∧
      decode 0xFF#8 0b0000_0001_00010000_00000000_0011_0101#32 = .ok (.roundsGrain 16#8 .w16 .gen) ∧
      decode 0xFF#8 0b0000_0000_00001010_10000000_0100_0101#32 = .ok (.roundsSparkle 128#8 10#8 .b4) ∧
      decode 0xFF#8 0b0000_0001_00000101_11111010_0100_0101#32 = .ok (.roundsSparkle 250#8 5#8 .b6) ∧
      decode 0xFF#8 0b0000_0010_00001100_00000000_0100_0101#32 = .ok (.roundsSparkle 0#8 12#8 .b8) ∧
      decode 0xFF#8 0b0000_0000_00001000_00000000_0101_0101#32 = .ok (.roundsJambu 8#8) ∧
      decode 0xFF#8 0b0000_0000_00000001_00001011_0110_0101#32 = .ok (.roundsPhoton 11#8 1#8) ∧
      decode 0xFF#8 0b0000_0000_00000110_00000110_0111_0101#32 = .ok (.roundsXoodoo 6#8 6#8) := by decide
/-- Vectors V-E1 to V-E15 and V-C6, V-C7: the code of the first failing encoding check. -/
theorem test_decode_rejects_by_code :
    decode 0xFF#8 0x00000006#32 = .error .eOp ∧ decode 0xFF#8 0xF0000086#32 = .error .eOp ∧
      decode 0xFF#8 0x10000000#32 = .error .eField ∧ decode 0xFF#8 0x00000085#32 = .error .ePrim ∧
      decode 0xFF#8 0x000D0085#32 = .error .ePrim ∧ decode 0xFF#8 0x00000024#32 = .error .eCombo ∧
      decode 0xFF#8 0x00000010#32 = .error .eField ∧ decode 0xFF#8 0x00010002#32 = .error .eField ∧
      decode 0xFF#8 0x00000112#32 = .error .eField ∧ decode 0xFF#8 0x03000045#32 = .error .eVar ∧
      decode 0xFF#8 0x0C000035#32 = .error .eVar ∧ decode 0xFF#8 0x000D0025#32 = .error .eRange ∧
      decode 0xFF#8 0x00290005#32 = .error .eRange ∧ decode 0xFF#8 0x00090035#32 = .error .eRange ∧
      decode 0xFF#8 0x01110035#32 = .error .eRange ∧ decode 0xFF#8 0x00010004#32 = .error .eField ∧
      decode 0x7F#8 0x00000072#32 = .error .ePrim := by decide
/-- Encoding gives back the rows' match words (30_encoding.md R92) and the words of 30_encoding.md R91. -/
theorem test_encode_words :
    encode .schedJambu = 0x00000054#32 ∧ encode .toextPhoton = 0x00000063#32 ∧
      encode (.roundsAscon 6#8 6#8) = 0x00060625#32 ∧ encode (.roundsGrain 16#8 .w16 .gen) = 0x01100035#32 ∧
      encode (.roundsSparkle 0#8 7#8 .b6) = 0x01070045#32 ∧ encode (.roundsJambu 8#8) = 0x00080055#32 := by decide

/-! ## One step: control commands (40_control.md, 95_test_vectors.md V-C1 to V-C8) -/

/-- V-C1. -/
theorem test_nop : answer (step (State.reset.withFetchWord 32 0x00000000)) = some { State.reset with done := true } := by decide
/-- R115: from reset, `SCHED.JAMBU` leaves `STATUS` = 0x15000002. -/
theorem test_sched_jambu_status : statusAfter (step (State.reset.withFetchWord 32 0x00000054)) = some 0x15000002#32 := by decide
/-- R114. -/
theorem test_sched_skinny_status : statusAfter (step (State.reset.withFetchWord 32 0x00000014)) = some 0x11000002#32 := by decide
/-- V-C3: the snapshot of KEY = 80..8f. -/
theorem test_sched_gift_snapshot :
    answer (exec .schedGift
        { State.reset with mem := Memory.writeBytes [] 0x140 ((List.range 16).map fun i => BitVec.ofNat 8 (0x80 + i)) }) =
      some { State.reset with
        mem := Memory.writeBytes [] 0x140 ((List.range 16).map fun i => BitVec.ofNat 8 (0x80 + i))
        mkey := keyRamp
        mvalid := true
        done := true } := by decide +kernel
/-- V-C8: `CLEAR` leaves `DONE` alone standing. -/
theorem test_clear :
    answer (exec .clear
        { started .gift wordRamp keyRamp with mem := dataRamp, err := true, ecode := .eLayout, ecmd := 0x00280005#32 }) =
      some { State.reset with done := true, err := true, ecode := .eLayout, ecmd := 0x00280005#32 } := by decide +kernel

/-! ## One step: layouts (41_layout.md, 95_test_vectors.md V-L0 to V-L9) -/

/-- V-L0, V-L8. -/
theorem test_toint_gift :
    wordsAfter 16 (exec .tointGift { State.reset with mem := dataRamp, w := wordRamp }) =
      [0x00010203#32, 0x04050607#32, 0x08090a0b#32, 0x0c0d0e0f#32] ++ List.replicate 12 0#32 := by decide +kernel
/-- V-L1, V-L8. -/
theorem test_toint_skinny :
    wordsAfter 16 (exec .tointSkinny { State.reset with mem := dataRamp, w := wordRamp }) =
      [0x03020100#32, 0x07060504#32, 0x0b0a0908#32, 0x0f0e0d0c#32] ++ List.replicate 12 0#32 := by decide +kernel
/-- V-L2, V-L8. -/
theorem test_toint_ascon :
    wordsAfter 16 (exec .tointAscon { State.reset with mem := dataRamp, w := wordRamp }) =
      [0x04050607#32, 0x00010203#32, 0x0c0d0e0f#32, 0x08090a0b#32, 0x14151617#32, 0x10111213#32, 0x1c1d1e1f#32, 0x18191a1b#32,
        0x24252627#32, 0x20212223#32] ++ List.replicate 6 0#32 := by decide +kernel
/-- V-L3. -/
theorem test_toint_grain :
    (wordsAfter 16 (exec .tointGrain { State.reset with mem := dataRamp })).take 2 = [0x03020100#32, 0x07060504#32] ∧
      (wordsAfter 16 (exec .tointGrain { State.reset with mem := dataRamp })).drop 14 = [0x3b3a3938#32, 0x3f3e3d3c#32] := by
  decide +kernel
/-- V-L4. -/
theorem test_toint_sparkle :
    (wordsAfter 16 (exec .tointSparkle { State.reset with mem := dataRamp })).take 2 = [0x03020100#32, 0x07060504#32] ∧
      (wordsAfter 16 (exec .tointSparkle { State.reset with mem := dataRamp })).drop 15 = [0x3f3e3d3c#32] := by decide +kernel
/-- V-L5. -/
theorem test_toint_jambu :
    wordsAfter 5 (exec .tointJambu { State.reset with mem := dataRamp, w := wordRamp }) =
      [0x03020100#32, 0x07060504#32, 0x0b0a0908#32, 0x0f0e0d0c#32, 0#32] := by decide +kernel
/-- V-L6. -/
theorem test_toint_photon :
    (wordsAfter 9 (exec .tointPhoton { State.reset with mem := dataRamp, w := wordRamp })).drop 6 =
      [0x1b1a1918#32, 0x1f1e1d1c#32, 0#32] := by decide +kernel
/-- V-L7. -/
theorem test_toint_xoodoo :
    (wordsAfter 13 (exec .tointXoodoo { State.reset with mem := dataRamp, w := wordRamp })).drop 10 =
      [0x2b2a2928#32, 0x2f2e2d2c#32, 0#32] := by decide +kernel
/-- R135's example; V-L9: `DATA[16]` keeps its value. -/
theorem test_toext_gift :
    dataAfter 17 (exec .toextGift { started .gift (wordsOf [0xfbe4870f#32, 0x51d85903#32, 0xfd41a734#32, 0x682c2ba5#32]) keyRamp with
        mem := dataRamp }) =
      [0xfb#8, 0xe4#8, 0x87#8, 0x0f#8, 0x51#8, 0xd8#8, 0x59#8, 0x03#8, 0xfd#8, 0x41#8, 0xa7#8, 0x34#8, 0x68#8, 0x2c#8, 0x2b#8,
        0xa5#8, 0x10#8] := by decide +kernel
/-- R137, after V-SK2's words: the cells in order. -/
theorem test_toext_skinny :
    dataAfter 16 (exec .toextSkinny (started .skinny (wordsOf [0x729c269a#32, 0xaac9bccf#32, 0x7ee341ab#32, 0x27b2447d#32]) keyRamp)) =
      [0x9a#8, 0x26#8, 0x9c#8, 0x72#8, 0xcf#8, 0xbc#8, 0xc9#8, 0xaa#8, 0xab#8, 0x41#8, 0xe3#8, 0x7e#8, 0x7d#8, 0x44#8, 0xb2#8,
        0x27#8] := by decide +kernel
/-- V-A1's words and bytes. -/
theorem test_toext_ascon :
    dataAfter 41 (exec .toextAscon (started .ascon (wordsOf
        [0x0faad4f1#32, 0x160c84f2#32, 0x0ae33eef#32, 0x21495b1b#32, 0xe23a914b#32, 0xe0377d04#32, 0x98ffa8ea#32, 0x2b234815#32,
          0xba83cd30#32, 0x649af379#32]) keyRamp)) =
      [0x16#8, 0x0c#8, 0x84#8, 0xf2#8, 0x0f#8, 0xaa#8, 0xd4#8, 0xf1#8, 0x21#8, 0x49#8, 0x5b#8, 0x1b#8, 0x0a#8, 0xe3#8, 0x3e#8, 0xef#8] ++
      [0xe0#8, 0x37#8, 0x7d#8, 0x04#8, 0xe2#8, 0x3a#8, 0x91#8, 0x4b#8, 0x2b#8, 0x23#8, 0x48#8, 0x15#8, 0x98#8, 0xff#8, 0xa8#8, 0xea#8] ++
      [0x64#8, 0x9a#8, 0xf3#8, 0x79#8, 0xba#8, 0x83#8, 0xcd#8, 0x30#8, 0x00#8] := by decide +kernel
/-- R133 with V-L3, V-L4, V-L5, V-L6, V-L7: the words of the bytes 0, 1, 2, … give those bytes, 4n of them. -/
theorem test_toext_grain_sparkle :
    dataAfter 64 (exec .toextGrain (started .grain wordRamp keyRamp)) = (List.range 64).map (fun i => BitVec.ofNat 8 i) ∧
      dataAfter 64 (exec .toextSparkle (started .sparkle wordRamp keyRamp)) = (List.range 64).map fun i => BitVec.ofNat 8 i := by
  decide +kernel
theorem test_toext_jambu_photon_xoodoo :
    dataAfter 17 (exec .toextJambu (started .jambu wordRamp keyRamp)) = (List.range 16).map (fun i => BitVec.ofNat 8 i) ++ [0#8] ∧
      dataAfter 33 (exec .toextPhoton (started .photon wordRamp keyRamp)) =
        (List.range 32).map (fun i => BitVec.ofNat 8 i) ++ [0#8] ∧
      dataAfter 49 (exec .toextXoodoo (started .xoodoo wordRamp keyRamp)) =
        (List.range 48).map (fun i => BitVec.ofNat 8 i) ++ [0#8] := by decide +kernel

/-! ## One step: rounds (95_test_vectors.md part 2) -/

/-- V-GI1. -/
theorem test_rounds_gift_first :
    wordsAfter 5 (exec (.roundsGift 0#8 1#8) (started .gift (wordsOf [0x00010203#32, 0x04050607#32, 0x08090a0b#32, 0x0c0d0e0f#32]) keyRamp)) =
      [0xfaffffee#32, 0xd98d9f8a#32, 0xd1948387#32, 0x91055501#32, 0#32] := by decide +kernel
/-- V-GI2: round 39 alone. -/
theorem test_rounds_gift_last :
    wordsAfter 4 (exec (.roundsGift 39#8 1#8) (started .gift (wordsOf []) keyRamp)) =
      [0xffffffff#32, 0x60202838#32, 0x98888b8a#32, 0x8000001a#32] := by decide +kernel
/-- V-SK2. -/
theorem test_rounds_skinny_first :
    wordsAfter 4 (exec (.roundsSkinny 0#8 1#8) skinnyStart) = [0x729c269a#32, 0xaac9bccf#32, 0x7ee341ab#32, 0x27b2447d#32] := by
  decide +kernel
/-- V-SK4: round 39 alone. -/
theorem test_rounds_skinny_last :
    wordsAfter 4 (exec (.roundsSkinny 39#8 1#8) skinnyStart) = [0x910c1ca7#32, 0x495986f2#32, 0x9a3b445d#32, 0xc4227e40#32] := by
  decide +kernel
/-- V-AS2. -/
theorem test_rounds_ascon_first :
    wordsAfter 10 (exec (.roundsAscon 0#8 1#8) (started .ascon (wordsOf
        [0x04050607#32, 0x00010203#32, 0x0c0d0e0f#32, 0x08090a0b#32, 0x14151617#32, 0x10111213#32, 0x1c1d1e1f#32, 0x18191a1b#32,
          0x24252627#32, 0x20212223#32]) keyRamp)) =
      [0x24554647#32, 0xe08f8d73#32, 0x49898e69#32, 0x89898988#32, 0x3b3b3bb0#32, 0xfb3b3b3b#32, 0x3dfdbd8c#32, 0x0682ba7b#32,
        0x49c544c2#32, 0x47cb4acc#32] := by decide +kernel
/-- V-A1: rounds 6 to 11. -/
theorem test_rounds_ascon_six :
    wordsAfter 2 (exec (.roundsAscon 6#8 6#8) (started .ascon (wordsOf []) keyRamp)) = [0x0faad4f1#32, 0x160c84f2#32] := by
  decide +kernel
/-- V-GR2: three halfwords, generating. -/
theorem test_rounds_grain_halves :
    wordsAfter 11 (exec (.roundsGrain 3#8 .w16 .gen) (started .grain wordRamp keyRamp)) =
      [0x09080706#32, 0x0d0c0b0a#32, 0x13ae0f0e#32, 0x128c3de7#32, 0x19181716#32, 0x1d1c1b1a#32, 0x15931f1e#32, 0xb3323a94#32,
        0x26252cdd#32, 0x2726006c#32, 0x2b2a2928#32] := by decide +kernel
/-- V-GR3: one word, initialising. -/
theorem test_rounds_grain_init :
    wordsAfter 10 (exec (.roundsGrain 1#8 .w32 .init) (started .grain wordRamp keyRamp)) =
      [0x07060504#32, 0x0b0a0908#32, 0x0f0e0d0c#32, 0x1bc23f73#32, 0x17161514#32, 0x1b1a1918#32, 0x1f1e1d1c#32, 0x1cb1394e#32,
        0x26252cdd#32, 0x27262524#32] := by decide +kernel
/-- V-SP3: B = 4. -/
theorem test_rounds_sparkle_four :
    wordsAfter 9 (exec (.roundsSparkle 0#8 1#8 .b4) (started .sparkle (wordsOf []) keyRamp)) =
      [0x1db78605#32, 0x579f1751#32, 0x24d5a17f#32, 0x89708e8b#32, 0x27c16010#32, 0x6372ddbc#32, 0x6b6089ac#32, 0x25ec34d8#32,
        0#32] := by decide +kernel
/-- V-SP6: B = 6, steps 250 to 254. -/
theorem test_rounds_sparkle_six :
    wordsAfter 13 (exec (.roundsSparkle 250#8 5#8 .b6) (started .sparkle (wordsOf []) keyRamp)) =
      [0x588b7348#32, 0xefa73a9c#32, 0xe0c9cb7c#32, 0xd339d8de#32, 0xca1e8336#32, 0x5d781376#32, 0x1c986dc7#32, 0x03103573#32,
        0x3f0ac636#32, 0x07705b92#32, 0x6dc08493#32, 0x46593d59#32, 0#32] := by decide +kernel
/-- V-J1. -/
theorem test_rounds_jambu_zero :
    wordsAfter 5 (exec (.roundsJambu 1#8) (started .jambu (wordsOf []) State.reset.mkey)) =
      [0xffffffff#32, 0xfc00001f#32, 0x800103ff#32, 0xf7f07fff#32, 0#32] := by decide +kernel
/-- V-J3. -/
theorem test_rounds_jambu_keyed :
    wordsAfter 4 (exec (.roundsJambu 1#8) (started .jambu (wordsOf [0x03020100#32, 0x07060504#32, 0x0b0a0908#32, 0x0f0e0d0c#32]) keyRamp)) =
      [0xbc86f0f2#32, 0xf5bd671a#32, 0x430793f4#32, 0xc12edd60#32] := by decide +kernel
/-- V-PH2. -/
theorem test_rounds_photon_first :
    wordsAfter 9 (exec (.roundsPhoton 0#8 1#8) (started .photon (wordsOf []) keyRamp)) =
      [0xe9177f2f#32, 0x2da7e364#32, 0x6de9b074#32, 0x7314d48e#32, 0x8d02b016#32, 0x15505ddc#32, 0xda49362b#32, 0x29be474c#32,
        0#32] := by decide +kernel
/-- V-PH4: round 11 alone. -/
theorem test_rounds_photon_last :
    wordsAfter 2 (exec (.roundsPhoton 11#8 1#8) (started .photon wordRamp keyRamp)) = [0x78e78c7b#32, 0xcae6fe59#32] := by
  decide +kernel
/-- V-XO1. -/
theorem test_rounds_xoodoo_first :
    wordsAfter 12 (exec (.roundsXoodoo 0#8 1#8) (started .xoodoo (wordsOf []) keyRamp)) =
      [0x58#32, 0#32, 0#32, 0#32, 0xb0#32, 0#32, 0#32, 0#32, 0#32, 0#32, 0#32, 0#32] := by decide +kernel
/-- V-XO3: rounds 6 to 11. -/
theorem test_rounds_xoodoo_six :
    wordsAfter 3 (exec (.roundsXoodoo 6#8 6#8) (started .xoodoo (wordsOf []) keyRamp)) =
      [0x28c9cea3#32, 0xad204f60#32, 0x2ec3d0d6#32] := by decide +kernel

/-! ## One step: issue, overrun, interrupt, reset, bus errors -/

/-- V-E1 and V-E16: a rejection takes effect in the step of the `CMD` write. -/
theorem test_rejection_status :
    statusAfter (step (facing State.reset (.write 0 0x010#9 4 0x00000006#32))) = some 0x00000104#32 ∧
      statusAfter (step (facing State.reset (.write 0 0x010#9 4 0x00060625#32))) = some 0x00000704#32 := by decide
/-- V-E17: `TOINT.GIFT` alone, then `ROUNDS.GIFT`. -/
theorem test_no_material_status :
    statusAfter (step (facing { State.reset with lvalid := true, done := true } (.write 0 0x010#9 4 0x00280005#32))) =
      some 0x00100806#32 := by decide
/-- V-J10: the material is GIFT's. -/
theorem test_foreign_material_status :
    statusAfter (step (facing { started .jambu wordRamp keyRamp with mprim := 0#4, done := true } (.write 0 0x010#9 4 0x00010055#32))) =
      some 0x10150806#32 := by decide
/-- V-O, steps 2 and 3: writes while busy set `OVR` and nothing else. -/
theorem test_overrun :
    answer (step (facing (flying (started .gift wordRamp keyRamp) 0x00280005#32) (.write 0 0x100#9 4 0x12345678#32))) =
      some { flying (started .gift wordRamp keyRamp) 0x00280005#32 with ovr := true, responses := [⟨0, .writeDone⟩] } := by decide
/-- V-I2: clearing `ERR` keeps `ECODE` and drops `IRQ`. -/
theorem test_status_write_clears :
    statusAfter (step (facing { State.reset with err := true, ecode := .eOp, ieErr := true } (.write 0 0x00C#9 4 0x4#32))) =
        some 0x00000100#32 ∧
      { State.reset with err := true, ieErr := true : State }.irq = true ∧ { State.reset with ieErr := true : State }.irq = false := by
  decide
/-- R395: host 0 issues `NOP` and reads `DATA` while it is in flight, and host 1 reads `ID`. The run of host 0 ends once the command
is complete; its observation has one read, without the value, and not host 1's. -/
theorem test_run_observation :
    ({ State.reset with agenda := [.write 0 0x010#9 4 0#32, .read 0 0x100#9 4, .read 1 0x000#9 4] } : State).runObservation 0 =
      some (({ State.reset with done := true, responses := [⟨0, .freeData 0#32⟩] } : State).observation 0) := by decide
/-- R395: a state with `BUSY` = 1, or with an access of the host to come, is not the end of its run. -/
theorem test_run_not_over :
    (flying State.reset 0#32).runOver 0 = false ∧ (facing State.reset (.read 0 0x000#9 4)).runOver 0 = false ∧
      (facing State.reset (.read 1 0x000#9 4)).runOver 0 = true := by decide
/-- V-R: a halfword access and an access at 0x102 answer an error and change nothing. -/
theorem test_bus_errors :
    answer (step (facing State.reset (.read 0 0x100#9 2))) = some { State.reset with responses := [⟨0, .readError .busError 0#32⟩] } ∧
      answer (step (facing State.reset (.write 0 0x102#9 4 0xFFFFFFFF#32))) =
        some { State.reset with responses := [⟨0, .writeError .busError⟩] } := by decide
/-- R51, R54: a `DATA` word reads back; a `KEY` word reads 0 but is stored lowest byte first. -/
theorem test_buffer_write_reads_back :
    answer (core.run 2 { State.reset with agenda := [.write 0 0x13C#9 4 0x12345678#32, .read 0 0x13C#9 4] }) =
        some { State.reset with
          mem := [(0x13C, 0x78#8), (0x13D, 0x56#8), (0x13E, 0x34#8), (0x13F, 0x12#8)]
          responses := [⟨0, .readData 0x12345678#32⟩, ⟨0, .writeDone⟩] } ∧
      answer (core.run 2 { State.reset with agenda := [.write 0 0x16C#9 4 0x000000FF#32, .read 0 0x16C#9 4] }) =
        some { State.reset with mem := [(0x16C, 0xFF#8)], responses := [⟨0, .readData 0#32⟩, ⟨0, .writeDone⟩] } := by decide
/-- R380: a command in flight at reset is abandoned. -/
theorem test_reset_abandons :
    answer (core.run 2 { flying (started .gift wordRamp keyRamp) 0x00280005#32 with agenda := [.assertReset, .releaseReset] }) =
      some State.reset := by decide

/-! ## Witnesses: the hypotheses of each statement, met together

`witness_<Name>` belongs to the statement `Obligations.<Name>`; a second witness for another clause has a suffix. -/

theorem witness_DecodeOfEncodeIsTheCommand :
    (Instr.roundsGift 1#8 39#8).wellFormed = true ∧ (Instr.roundsGift 1#8 39#8).builtIn 0x01#8 = true ∧
      (Instr.roundsGrain 16#8 .w16 .init).wellFormed = true ∧ (Instr.roundsGrain 16#8 .w16 .init).builtIn 0x08#8 = true ∧
      Instr.clear.wellFormed = true ∧ Instr.clear.builtIn 0x00#8 = true := by decide
theorem witness_EncodeOfDecodeIsTheWord :
    decode 0x10#8 0x02FFFF45#32 = .ok (.roundsSparkle 255#8 255#8 .b8) ∧ decode 0x00#8 0x00000001#32 = .ok .clear := by decide
theorem witness_EveryWordIsOneRowOrOneErrorCode :
    ((checksOf State.reset 0x00290005#32).take 8).find? (fun check => check.1) = some (true, .eRange) ∧
      ((checksOf State.reset 0x00280005#32).take 8).find? (fun check => check.1) = none ∧
      (Instr.roundsGift 0#8 40#8).rowMatches 0x00280005#32 = true ∧ (Instr.roundsGift 7#8 9#8).rowMatches 0x00280005#32 = true := by
  decide
theorem witness_PseudoInstructionsAreRoundsWords : (8#8 : Byte).toNat ≤ 8 ∧ (0#8 : Byte).toNat ≤ 8 := by decide
theorem witness_RangeViolationsGiveERange :
    decode 0xFF#8 (encode (.roundsGift 1#8 40#8)) = .error .eRange ∧ decode 0xFF#8 (encode (.roundsSkinny 40#8 1#8)) = .error .eRange ∧
      decode 0xFF#8 (encode (.roundsAscon 0#8 13#8)) = .error .eRange ∧ decode 0xFF#8 (encode (.roundsPhoton 12#8 1#8)) = .error .eRange ∧
      decode 0xFF#8 (encode (.roundsXoodoo 255#8 255#8)) = .error .eRange ∧
      decode 0xFF#8 (encode (.roundsGrain 9#8 .w32 .gen)) = .error .eRange ∧
      decode 0xFF#8 (encode (.roundsGrain 17#8 .w16 .gen)) = .error .eRange := by decide

/-- The issue states: idle and released, with layout and material, with layout alone, with neither. -/
theorem witness_CommandWriteFollowsTheCheckOrder :
    State.reset.inReset = false ∧ State.reset.busy = false ∧
      (checksOf State.reset 0x00060625#32).find? (fun check => check.1) = some (true, .eLayout) ∧
      (checksOf { State.reset with lvalid := true } 0x00280005#32).find? (fun check => check.1) = some (true, .eMat) ∧
      (checksOf (started .gift wordRamp keyRamp) 0x00280005#32).find? (fun check => check.1) = none := by decide
theorem witness_AbsentPrimitivesAreRejected :
    let s := { State.reset with primPresent := 0x7F#8 }
    s.inReset = false ∧ s.busy = false ∧ Instr.tointXoodoo.prim? = some .xoodoo ∧ s.cap.getLsbD Prim.xoodoo.code.toNat = false := by
  decide
theorem witness_TagsDecideAcceptance :
    let s := started .gift wordRamp keyRamp
    s.inReset = false ∧ s.busy = false ∧ (Instr.roundsGift 0#8 40#8).wellFormed = true ∧
      (Instr.roundsGift 0#8 40#8).builtIn s.primPresent = true ∧ (∀ p, layoutNeeded (.roundsGift 0#8 40#8) = some p → s.layoutIs p = true) ∧
      ∀ p, materialNeeded (.roundsGift 0#8 40#8) = some p → s.materialIs p = true :=
  ⟨by decide, by decide, by decide, by decide, by rintro p ⟨⟩; decide, by rintro p ⟨⟩; decide⟩
theorem witness_TagsDecideAcceptance_layout :
    State.reset.inReset = false ∧ State.reset.busy = false ∧ Instr.toextAscon.wellFormed = true ∧
      Instr.toextAscon.builtIn State.reset.primPresent = true ∧ layoutNeeded .toextAscon = some .ascon ∧
      State.reset.layoutIs .ascon = false := by decide
theorem witness_TagsDecideAcceptance_material :
    let s := { started .jambu wordRamp keyRamp with mprim := 0#4 }
    s.inReset = false ∧ s.busy = false ∧ (Instr.roundsJambu 1#8).wellFormed = true ∧
      (Instr.roundsJambu 1#8).builtIn s.primPresent = true ∧ layoutNeeded (.roundsJambu 1#8) = some .jambu ∧ s.layoutIs .jambu = true ∧
      materialNeeded (.roundsJambu 1#8) = some .jambu ∧ s.materialIs .jambu = false := by decide

theorem witness_StepRunsTheDecodedCommand :
    let s := flying State.reset 0x00000022#32
    (facing s .assertReset).agenda = [.assertReset] ∧ s.agenda = [] ∧ s.inReset = false ∧ s.pend = some 0x00000022#32 ∧
      decode s.primPresent 0x00000022#32 = .ok .tointAscon ∧ State.reset.pend = none := by decide
theorem witness_AcceptedCommandsComplete :
    let s := flying (started .gift wordRamp keyRamp) 0x00280005#32
    s.inReset = false ∧ s.pend = some 0x00280005#32 ∧ (checksOf s 0x00280005#32).find? (fun check => check.1) = none := by decide

/-- Writes and reads between the issue and the completion of `ROUNDS.GIFT`. -/
def between : List Turn :=
  [.write 0 0x100#9 4 0xFFFFFFFF#32, .read 1 0x180#9 4, .write 0 0x008#9 4 3#32, .write 0 0x010#9 4 1#32]
theorem witness_HostCannotDisturbACommandInFlight :
    let s := { started .gift wordRamp keyRamp with
      agenda := .write 0 0x010#9 4 (encode (.roundsGift 0#8 1#8)) :: (between ++ .engine :: []) }
    s.inReset = false ∧ s.busy = false ∧ (checksOf s (encode (.roundsGift 0#8 1#8))).find? (fun check => check.1) = none ∧
      s.agenda = .write 0 0x010#9 4 (encode (.roundsGift 0#8 1#8)) :: (between ++ .engine :: []) ∧
      ∀ t ∈ between, Turn.isHost t = true := by decide

/-- `KEY` set, and the command `c` in flight: a state of a run. -/
def keyed (c : Word) : State := { flying State.reset c with mem := [(0x140, 0x80#8), (0x16F, 0x81#8)] }
/-- `DATA` set, and the command `c` in flight: a state of a run. -/
def loaded (c : Word) : State := { flying State.reset c with mem := [(0x100, 0x11#8), (0x13F, 0x22#8)] }
/-- The words and the layout of GIFT, and the command `c` in flight: a state of a run. -/
def laidOut (c : Word) : State := flying { State.reset with w := wordsOf [1#32, 2#32, 3#32, 4#32], lvalid := true } c

theorem witness_EveryStepKeepsTheInvariant :
    (laidOut 0x00000003#32).Inv ∧ ∃ t, step (laidOut 0x00000003#32) = .next t ∧ t ≠ laidOut 0x00000003#32 :=
  ⟨⟨⟨by decide, by simp [laidOut, flying, State.reset]⟩, by rintro c ⟨⟩; decide,
    ⟨by simp [laidOut, flying], fun _ => ⟨.gift, by decide, by decide, by decide⟩⟩,
    ⟨fun _ => ⟨by decide, by decide⟩, by simp [laidOut, flying, State.reset]⟩, fun _ => by decide,
    by simp [State.heldInReset, laidOut, flying, State.reset]⟩, _, rfl, by decide⟩

theorem witness_OnlyCommandsWriteTheStateWords :
    ∃ t, step (loaded 0x00000002#32) = .next t ∧ t.w ≠ (loaded 0x00000002#32).w := ⟨_, rfl, by decide +kernel⟩
theorem witness_OnlyCommandsWriteTheStateWords_clear :
    ∃ t, step (laidOut 0x00000001#32) = .next t ∧ t.w ≠ (laidOut 0x00000001#32).w := ⟨_, rfl, by decide +kernel⟩
theorem witness_OnlyCommandsWriteTheStateWords_reset :
    ∃ t, step (facing (laidOut 0#32) .assertReset) = .next t ∧ t.w ≠ (laidOut 0#32).w := ⟨_, rfl, by decide +kernel⟩
theorem witness_MaterialChangesOnlyBySchedClearReset :
    ∃ t, step (keyed 0x00000014#32) = .next t ∧
      ¬(t.mkey = (keyed 0x00000014#32).mkey ∧ t.mprim = (keyed 0x00000014#32).mprim ∧ t.mvalid = (keyed 0x00000014#32).mvalid) :=
  ⟨_, rfl, by decide +kernel⟩
theorem witness_LayoutTagChangesOnlyByTointClearReset :
    ∃ t, step (loaded 0x00000072#32) = .next t ∧
      ¬(t.lprim = (loaded 0x00000072#32).lprim ∧ t.lvalid = (loaded 0x00000072#32).lvalid) := ⟨_, rfl, by decide +kernel⟩
/-- The first and the last byte of the host's two buffers. -/
theorem witness_BufferBytesChangeOnlyByTheirWriters_write :
    (∃ t, step (facing State.reset (.write 0 0x100#9 4 1#32)) = .next t ∧ t.mem.read 0x100 ≠ State.reset.mem.read 0x100) ∧
      ∃ t, step (facing State.reset (.write 0 0x16C#9 4 0x01000000#32)) = .next t ∧ t.mem.read 0x16F ≠ State.reset.mem.read 0x16F :=
  ⟨⟨_, rfl, by decide +kernel⟩, _, rfl, by decide +kernel⟩
theorem witness_BufferBytesChangeOnlyByTheirWriters_toext :
    ∃ t, step (laidOut 0x00000003#32) = .next t ∧ t.mem.read 0x10F ≠ (laidOut 0x00000003#32).mem.read 0x10F :=
  ⟨_, rfl, by decide +kernel⟩
theorem witness_BufferBytesChangeOnlyByTheirWriters_clear :
    ∃ t, step (loaded 0x00000001#32) = .next t ∧ t.mem.read 0x13F ≠ (loaded 0x00000001#32).mem.read 0x13F :=
  ⟨_, rfl, by decide +kernel⟩
theorem witness_ErrorRecordChangesOnlyByRejectionOrReset :
    (facing State.reset (.write 0 0x010#9 4 0x00000006#32)).Inv ∧
      ∃ t, step (facing State.reset (.write 0 0x010#9 4 0x00000006#32)) = .next t ∧ t.ecode = .eOp :=
  ⟨⟨⟨by decide, by simp [facing, State.reset]⟩, by simp [State.pendAccepted, facing, State.reset],
    ⟨fun _ => ⟨by decide, by decide⟩, by simp [facing, State.reset]⟩,
    ⟨fun _ => ⟨by decide, by decide⟩, by simp [facing, State.reset]⟩, fun _ => by decide,
    by simp [State.heldInReset, facing, State.reset]⟩, _, rfl, by decide⟩
theorem witness_CapIsConstant : ∃ t, step (loaded 0x00000001#32) = .next t := ⟨_, rfl⟩
theorem witness_ResetInputResetsEverything :
    { State.reset with inReset := true : State }.inReset = true ∧ 0x000 < 0x200 ∧ 0x000 % 4 = 0 ∧ 0x1FC < 0x200 ∧ 0x1FC % 4 = 0 := by
  decide

/-! Host accesses: the ends of every range of offsets, an idle state and a busy one. -/

theorem witness_ReadsReturnTheAddressMapValue :
    State.reset.inReset = false ∧ State.reset.busy = false ∧ reservedOffset 0x018 ∧ reservedOffset 0x0FC ∧ reservedOffset 0x170 ∧
      reservedOffset 0x17C ∧ reservedOffset 0x1C0 ∧ reservedOffset 0x1FC ∧ ¬reservedOffset 0x014 ∧ ¬reservedOffset 0x100 ∧
      ¬reservedOffset 0x16C ∧ ¬reservedOffset 0x180 ∧ ¬reservedOffset 0x1BC := by simp [reservedOffset, State.reset, State.busy]
theorem witness_BusyReadsAnswerFreeValues :
    let s := laidOut 0x00000003#32
    s.inReset = false ∧ s.busy = true ∧
      ∀ off ∈ [0x100, 0x13C, 0x180, 0x1BC], off % 4 = 0 ∧ ((0x100 ≤ off ∧ off < 0x140) ∨ (0x180 ≤ off ∧ off < 0x1C0)) := by decide
theorem witness_ReservedAndReadOnlyOffsetsIgnoreWrites :
    State.reset.inReset = false ∧ reservedOffset 0x0FC ∧ 0x014 ∈ [0x000, 0x004, 0x014] ∧ 0x1BC % 4 = 0 ∧ 0x180 ≤ 0x1BC ∧ 0x1BC < 0x1C0 := by
  simp [reservedOffset, State.reset]
theorem witness_BufferWordsAreLittleEndian :
    State.reset.inReset = false ∧ State.reset.busy = false ∧ State.reset.mem.wf = true ∧ dataRamp.wf = true ∧ 15 < 16 ∧ 11 < 12 := by
  decide +kernel
theorem witness_WritesWhileBusyAreDropped :
    let s := laidOut 0x00000003#32
    s.inReset = false ∧ s.busy = true ∧
      (∀ off ∈ [0x010, 0x100, 0x16C], off < 0x200 ∧ off % 4 = 0 ∧ (off = 0x010 ∨ (0x100 ≤ off ∧ off < 0x170))) ∧
      ∀ off ∈ [0x000, 0x014, 0x0FC, 0x170, 0x180, 0x1FC], off < 0x200 ∧ off % 4 = 0 ∧
        ¬(off = 0x010 ∨ (0x100 ≤ off ∧ off < 0x170) ∨ off = 0x008 ∨ off = 0x00C) := by decide
theorem witness_StatusWritesClearOnlyTheirFlags : (laidOut 0x00000003#32).inReset = false ∧ State.reset.inReset = false := by decide
theorem witness_CtrlHoldsTheEnables : (laidOut 0x00000003#32).inReset = false ∧ State.reset.inReset = false := by decide
theorem witness_IllegalAccessesChangeNothing :
    State.reset.inReset = false ∧ (2 ≠ 4 ∨ (0x100#9).toNat % 4 ≠ 0) ∧ (4 ≠ 4 ∨ (0x1FF#9).toNat % 4 ≠ 0) := by decide

/-! Control and layout commands. -/

theorem witness_NopOnlyCompletes : opField 0x00000010#32 = 0#4 ∧ 0x00000010#32 ≠ 0x00000000#32 := by decide
theorem witness_ClearZeroesWordsBuffersMaterialTags : opField 0x00000101#32 = 1#4 ∧ 0x00000101#32 ≠ 0x00000001#32 := by decide
theorem witness_SchedCopiesTheKey : ∀ p ∈ [Prim.gift, .skinny, .jambu], State.reset.present p = true := by decide
theorem witness_TointLittleEndianLayouts :
    ∀ p ∈ [Prim.skinny, .grain, .sparkle, .jambu, .photon, .xoodoo], State.reset.present p = true := by decide
theorem witness_TointBigEndianLayouts : State.reset.present .gift = true ∧ State.reset.present .ascon = true := by decide
/-- A state in the layout p, with bytes at both ends of `DATA` and one in `KEY`. -/
def written (p : Prim) : State :=
  { started p wordRamp keyRamp with mem := [(0x100, 1#8), (0x13F, 2#8), (0x140, 3#8)] }
theorem witness_ToextLittleEndianLayouts :
    ∀ p ∈ [Prim.skinny, .grain, .sparkle, .jambu, .photon, .xoodoo], (written p).mem.wf = true ∧ (written p).present p = true ∧
      (written p).layoutIs p = true := by decide
theorem witness_ToextBigEndianLayouts :
    ∀ p ∈ [Prim.gift, .ascon], (written p).mem.wf = true ∧ (written p).present p = true ∧ (written p).layoutIs p = true := by decide
theorem witness_LayoutRoundTrip :
    ∀ p ∈ [Prim.gift, .skinny, .ascon, .grain, .sparkle, .jambu, .photon, .xoodoo], (written p).mem.wf = true ∧
      (written p).present p = true ∧ (written p).layoutIs p = true := by decide

/-! Rounds: the limits of START and COUNT in a state that holds the layout and the material. -/

theorem witness_RoundsGiftRunsItsRounds :
    let s := started .gift wordRamp keyRamp
    s.present .gift = true ∧ (1#8 : Byte).toNat + (39#8 : Byte).toNat ≤ 40 ∧ (40#8 : Byte).toNat + (0#8 : Byte).toNat ≤ 40 ∧
      s.layoutIs .gift = true ∧ s.materialIs .gift = true := by decide
theorem witness_RoundsSkinnyRunsItsRounds :
    skinnyStart.present .skinny = true ∧ (0#8 : Byte).toNat + (40#8 : Byte).toNat ≤ 40 ∧ skinnyStart.layoutIs .skinny = true ∧
      skinnyStart.materialIs .skinny = true := by decide
theorem witness_RoundsAsconRunsItsRounds :
    let s := started .ascon wordRamp keyRamp
    s.present .ascon = true ∧ s.layoutIs .ascon = true ∧ (5#8 : Byte).toNat + (7#8 : Byte).toNat ≤ 12 ∧
      (12#8 : Byte).toNat + (0#8 : Byte).toNat ≤ 12 := by decide
theorem witness_RoundsPhotonRunsItsRounds :
    let s := started .photon wordRamp keyRamp
    s.present .photon = true ∧ s.layoutIs .photon = true ∧ (5#8 : Byte).toNat + (7#8 : Byte).toNat ≤ 12 ∧
      (12#8 : Byte).toNat + (0#8 : Byte).toNat ≤ 12 := by decide
theorem witness_RoundsXoodooRunsItsRounds :
    let s := started .xoodoo wordRamp keyRamp
    s.present .xoodoo = true ∧ s.layoutIs .xoodoo = true ∧ (5#8 : Byte).toNat + (7#8 : Byte).toNat ≤ 12 ∧
      (12#8 : Byte).toNat + (0#8 : Byte).toNat ≤ 12 := by decide
theorem witness_RoundsGrainGeneratesItsSequence :
    let s := started .grain wordRamp keyRamp
    s.present .grain = true ∧ s.layoutIs .grain = true ∧ (8#8 : Byte).toNat ≤ 8 ∧ (16#8 : Byte).toNat ≤ 16 := by decide
theorem witness_RoundsSparkleRunsItsSteps :
    (started .sparkle wordRamp keyRamp).present .sparkle = true ∧ (started .sparkle wordRamp keyRamp).layoutIs .sparkle = true := by
  decide
theorem witness_RoundsJambuRunsItsSequence :
    let s := started .jambu wordRamp keyRamp
    s.present .jambu = true ∧ s.layoutIs .jambu = true ∧ s.materialIs .jambu = true := by decide
theorem witness_ZeroCountOnlyCompletes :
    (∀ p ∈ [Prim.gift, .skinny, .jambu], (started p wordRamp keyRamp).present p = true ∧
        (started p wordRamp keyRamp).layoutIs p = true ∧ (started p wordRamp keyRamp).materialIs p = true) ∧
      (∀ p ∈ [Prim.ascon, .grain, .sparkle, .photon, .xoodoo], (started p wordRamp keyRamp).present p = true ∧
        (started p wordRamp keyRamp).layoutIs p = true) ∧
      (40#8 : Byte).toNat ≤ 40 ∧ (12#8 : Byte).toNat ≤ 12 := by decide
/-- With a = 255, b = 255, c = 510 for SPARKLE, and a = 0, b = 5, c = 12 for the others. -/
theorem witness_PermutationRoundsCompose :
    0 ≤ 5 ∧ 5 ≤ 12 ∧ 12 ≤ 12 ∧ 255 ≤ 255 ∧ 255 ≤ 510 ∧ 510 - 255 ≤ 255 ∧
      ∀ p ∈ [Prim.ascon, .sparkle, .photon, .xoodoo], (started p wordRamp keyRamp).present p = true ∧
        (started p wordRamp keyRamp).layoutIs p = true := by decide
theorem witness_KeyedRoundsCompose :
    0 ≤ 20 ∧ 20 ≤ 40 ∧ 40 ≤ 40 ∧ 20 ≤ 255 ∧ 255 ≤ 255 ∧
      ∀ p ∈ [Prim.gift, .skinny, .jambu], (started p wordRamp keyRamp).present p = true ∧
        (started p wordRamp keyRamp).layoutIs p = true ∧ (started p wordRamp keyRamp).materialIs p = true := by decide
theorem witness_GrainCommandsContinue :
    let s := started .grain wordRamp keyRamp
    s.present .grain = true ∧ 3 + 5 ≤ 8 ∧ 1 + 15 ≤ 16 ∧ 8 ≤ 8 ∧ s.layoutIs .grain = true := by decide
theorem witness_GrainWidthChangesOnlyThePacking :
    (started .grain wordRamp keyRamp).present .grain = true ∧ (8 : Nat) ≤ 8 ∧ (started .grain wordRamp keyRamp).layoutIs .grain = true := by
  decide
theorem witness_JambuBlockIsFourWordUpdates :
    let s := started .jambu wordRamp keyRamp
    s.present .jambu = true ∧ s.layoutIs .jambu = true ∧ s.materialIs .jambu = true := by decide
theorem witness_AlzetteAndEllFollowTheirFormulas : 0 < 32 ∧ 15 < 32 ∧ 16 < 32 ∧ 31 < 32 := by decide

/-! Runs. -/

theorem witness_RunsEndInTheirObservation : (facing State.reset (.write 0 0x010#9 4 0x00000006#32)).Inv :=
  witness_ErrorRecordChangesOnlyByRejectionOrReset.1

end Sys2Proof.Tests
end

/-! ## The frame of every command

A command is `runCommand` of its requirements and its effect; its effect is one of six kinds. -/

namespace Sys2Proof.Machine

theorem firstFailing_eq_none_iff {needs : List (Bool × ErrorCode)} :
    firstFailing needs = none ↔ ∀ n ∈ needs, n.1 = true := by
  refine ⟨fun h n hn => ?_, firstFailing_none⟩
  induction needs with
  | nil => simp at hn
  | cons m rest ih =>
    obtain ⟨holds, e⟩ := m
    cases holds
    · simp [firstFailing] at h
    · rcases List.mem_cons.mp hn with rfl | hn
      · rfl
      · exact ih (by simpa [firstFailing] using h) hn

/-- The requirement of a command on its range (30_encoding.md R86). -/
def rangeNeeds : Instr → List (Bool × ErrorCode)
  | .roundsGift start count | .roundsSkinny start count => [needRounds 40 start count]
  | .roundsAscon start count | .roundsPhoton start count | .roundsXoodoo start count => [needRounds 12 start count]
  | .roundsGrain count width _ => [(decide (count.toNat ≤ grainLimit width), .eRange)]
  | _ => []

/-- The requirements of a command, in the order of 60_exceptions.md R341. -/
def needsOf (i : Instr) (s : State) : List (Bool × ErrorCode) :=
  i.prim?.toList.map (needPresent s) ++ rangeNeeds i ++ (layoutNeeded i).toList.map (needLayout s) ++
    (materialNeeded i).toList.map (needMaterial s)

theorem exec_eq_runCommand (i : Instr) (s : State) : exec i s = runCommand (encode i) (needsOf i s) (effectOf i s) s := by
  cases i <;> rfl

/-- What a command that completes has found: its primitive built in, and the layout and material it needs. -/
structure RequirementsMet (i : Instr) (s : State) : Prop where
  present : ∀ p, i.prim? = some p → s.present p = true
  layout : ∀ p, layoutNeeded i = some p → s.layoutIs p = true
  material : ∀ p, materialNeeded i = some p → s.materialIs p = true

theorem requirementsMet_of_firstFailing {i : Instr} {s : State} (h : firstFailing (needsOf i s) = none) :
    RequirementsMet i s := by
  rw [firstFailing_eq_none_iff] at h
  refine ⟨fun p hp => h (needPresent s p) ?_, fun p hp => h (needLayout s p) ?_, fun p hp => h (needMaterial s p) ?_⟩ <;>
    simp [needsOf, hp]

theorem needsOf_ne_eNone (i : Instr) (s : State) : ∀ n ∈ needsOf i s, n.2 ≠ .eNone := by
  cases i <;> simp [needsOf, rangeNeeds, Instr.prim?, layoutNeeded, materialNeeded, needPresent, needRounds, needLayout,
    needMaterial]

/-- All a command can do: it is rejected, or it finds its requirements met, has its effect and completes. -/
theorem exec_rejects_or_completes (i : Instr) (s : State) :
    (∃ e, e ≠ .eNone ∧ exec i s = .next (s.reject e (encode i)).retire) ∨
      (RequirementsMet i s ∧ exec i s = .next (effectOf i s).finish) := by
  rw [exec_eq_runCommand]
  cases h : firstFailing (needsOf i s) with
  | none => exact .inr ⟨requirementsMet_of_firstFailing h, runCommand_completes h⟩
  | some e =>
    obtain ⟨n, hn, -, rfl⟩ := firstFailing_mem h
    exact .inl ⟨n.2, needsOf_ne_eNone i s n hn, runCommand_rejects h⟩

/-! ### The words that rounds leave alone (10_state.md R25) -/

theorem sameFrom_overlay {n : Nat} (w : Words) {vs : List Word} (hvs : vs.length ≤ n) : SameFrom n w (overlay w vs) :=
  fun k h hk => overlay_outside w vs k h (by omega)

/-- A primitive that uses every word leaves none alone. -/
theorem sameFrom_sixteen (w w' : Words) : SameFrom 16 w w' := fun k h hk => absurd h (by omega)

theorem sameFrom_giftRounds (m : Material) (start count : Nat) (w : Words) :
    SameFrom (primWords .gift) w (giftRounds m start count w) := sameFrom_overlay w (Nat.le_refl 4)

theorem sameFrom_skinnyRounds (tk : SkinnyTweakey) (start count : Nat) (w : Words) :
    SameFrom (primWords .skinny) w (skinnyRounds tk start count w) :=
  sameFrom_overlay w (by simp [skinnyStore, le32Words_length, primWords])

theorem sameFrom_asconRounds (start count : Nat) (w : Words) :
    SameFrom (primWords .ascon) w (asconRounds start count w) := sameFrom_overlay w (Nat.le_refl 10)

theorem sameFrom_jambuRounds (m : Material) (count : Nat) (w : Words) :
    SameFrom (primWords .jambu) w (jambuRounds m count w) := sameFrom_overlay w (Nat.le_refl 4)

theorem sameFrom_photonRounds (start count : Nat) (w : Words) :
    SameFrom (primWords .photon) w (photonRounds start count w) :=
  sameFrom_overlay w (by simp [photonStore, primWords])

theorem sameFrom_xoodooRounds (start count : Nat) (w : Words) :
    SameFrom (primWords .xoodoo) w (xoodooRounds start count w) := sameFrom_overlay w (by simp [primWords])

/-! ### The kinds of effects -/

theorem firstWords_primWords_length (p : Prim) (w : Words) : (firstWords (primWords p) w).length = primWords p := by
  cases p <;> simp [primWords]

/-- The kinds of effects a command can have on a state, each with what it says of the command. -/
inductive EffectKind (i : Instr) (s : State) : State → Prop
  | nop (hi : i = .nop) : EffectKind i s s
  | clear (hi : i = .clear) : EffectKind i s (clearEffect s)
  | toint (p : Prim) (inWords : List Byte → List Word) (hop : (opField (encode i)).toNat = 2) (hp : layoutGiven i = some p)
      (hlen : (inWords (s.dataBytes (4 * primWords p))).length = primWords p) : EffectKind i s (toInternal p inWords s)
  | toext (p : Prim) (outBytes : List Word → List Byte) (hop : (opField (encode i)).toNat = 3) (hp : i.prim? = some p)
      (hlen : (outBytes (firstWords (primWords p) s.w)).length = 4 * primWords p) :
      EffectKind i s (toExternal p outBytes s)
  | sched (p : Prim) (hp : scheduled i = some p) : EffectKind i s (schedule p s)
  | rounds (p : Prim) (w : Words) (hop : (opField (encode i)).toNat = 5) (hp : layoutNeeded i = some p)
      (hw : SameFrom (primWords p) s.w w) : EffectKind i s { s with w := w }

theorem effectKind_effectOf (i : Instr) (s : State) : EffectKind i s (effectOf i s) := by
  have bytes : ∀ p, (s.dataBytes (4 * primWords p)).length = 4 * primWords p := fun p =>
    Memory.readBytes_length s.mem dataBase (4 * primWords p)
  have words : ∀ p, (firstWords (primWords p) s.w).length = primWords p := fun p => firstWords_primWords_length p s.w
  cases i
  case nop => exact .nop rfl
  case clear => exact .clear rfl
  case tointGift => exact .toint .gift inGift rfl rfl (by rw [inGift, be32Words_length, bytes]; rfl)
  case tointSkinny => exact .toint .skinny inSkinny rfl rfl (by rw [inSkinny, le32Words_length, bytes]; rfl)
  case tointAscon => exact .toint .ascon inAscon rfl rfl (by rw [inAscon, be64WordPairs_length, bytes]; rfl)
  case tointGrain => exact .toint .grain inGrain rfl rfl (by rw [inGrain, le32Words_length, bytes]; rfl)
  case tointSparkle => exact .toint .sparkle inSparkle rfl rfl (by rw [inSparkle, le32Words_length, bytes]; rfl)
  case tointJambu => exact .toint .jambu inJambu rfl rfl (by rw [inJambu, le32Words_length, bytes]; rfl)
  case tointPhoton => exact .toint .photon inPhoton rfl rfl (by rw [inPhoton, le32Words_length, bytes]; rfl)
  case tointXoodoo => exact .toint .xoodoo inXoodoo rfl rfl (by rw [inXoodoo, le32Words_length, bytes]; rfl)
  case toextGift => exact .toext .gift outGift rfl rfl (by rw [outGift, be32Bytes_length, words])
  case toextSkinny => exact .toext .skinny outSkinny rfl rfl (by rw [outSkinny, le32Bytes_length, words])
  case toextAscon => exact .toext .ascon outAscon rfl rfl (by rw [outAscon, be64Bytes_length, words]; rfl)
  case toextGrain => exact .toext .grain outGrain rfl rfl (by rw [outGrain, le32Bytes_length, words])
  case toextSparkle => exact .toext .sparkle outSparkle rfl rfl (by rw [outSparkle, le32Bytes_length, words])
  case toextJambu => exact .toext .jambu outJambu rfl rfl (by rw [outJambu, le32Bytes_length, words])
  case toextPhoton => exact .toext .photon outPhoton rfl rfl (by rw [outPhoton, le32Bytes_length, words])
  case toextXoodoo => exact .toext .xoodoo outXoodoo rfl rfl (by rw [outXoodoo, le32Bytes_length, words])
  case schedGift => exact .sched .gift rfl
  case schedSkinny => exact .sched .skinny rfl
  case schedJambu => exact .sched .jambu rfl
  case roundsGift a n => exact .rounds .gift _ (by simp [encode]) rfl (sameFrom_giftRounds _ _ _ _)
  case roundsSkinny a n => exact .rounds .skinny _ (by simp [encode]) rfl (sameFrom_skinnyRounds _ _ _ _)
  case roundsAscon a n => exact .rounds .ascon _ (by simp [encode]) rfl (sameFrom_asconRounds _ _ _)
  case roundsGrain n b m => exact .rounds .grain _ (by simp [encode]) rfl (sameFrom_sixteen _ _)
  case roundsSparkle a n b => exact .rounds .sparkle _ (by simp [encode]) rfl (sameFrom_sixteen _ _)
  case roundsJambu n => exact .rounds .jambu _ (by simp [encode]) rfl (sameFrom_jambuRounds _ _ _)
  case roundsPhoton a n => exact .rounds .photon _ (by simp [encode]) rfl (sameFrom_photonRounds _ _ _)
  case roundsXoodoo a n => exact .rounds .xoodoo _ (by simp [encode]) rfl (sameFrom_xoodooRounds _ _ _)

/-! ### What the naming functions of a command have in common -/

theorem prim?_of_layoutGiven {i : Instr} {p : Prim} (h : layoutGiven i = some p) : i.prim? = some p := by
  cases i <;> simp_all [layoutGiven, Instr.prim?]

theorem prim?_of_layoutNeeded {i : Instr} {p : Prim} (h : layoutNeeded i = some p) : i.prim? = some p := by
  cases i <;> simp_all [layoutNeeded, Instr.prim?]

theorem prim?_of_scheduled {i : Instr} {p : Prim} (h : scheduled i = some p) : i.prim? = some p := by
  cases i <;> simp_all [scheduled, Instr.prim?]

theorem keyed_of_scheduled {i : Instr} {p : Prim} (h : scheduled i = some p) : p.keyed = true := by
  cases i <;> simp [scheduled] at h <;> subst h <;> rfl

end Sys2Proof.Machine

/-! ## All a turn and a step can do -/

namespace Sys2Proof.Machine

/-- What a host write that is not ignored does to the engine (20_memory.md R54; 60_exceptions.md R350;
70_reset_and_hazards.md R384). -/
inductive WriteEffect (s : State) (off : Nat) (v : Word) : State → Prop
  | ctrl (hoff : off = 0x008) : WriteEffect s off v (s.writeCtrl v)
  | status (hoff : off = 0x00C) : WriteEffect s off v (s.writeStatus v)
  | overrun (hb : s.busy = true) : WriteEffect s off v s.overrun
  | rejected (e : ErrorCode) (hoff : off = 0x010) (hb : s.busy = false) (he : issueCheck s v = some e) :
      WriteEffect s off v (s.reject e v)
  | accepted (hoff : off = 0x010) (hb : s.busy = false) (hc : issueCheck s v = none) : WriteEffect s off v (s.accept v)
  | stored (hb : s.busy = false) (hlo : 0x100 ≤ off) (hhi : off < 0x170) (hoff : off % 4 = 0) :
      WriteEffect s off v { s with mem := s.mem.writeWord off v }

/-- What a turn can do. -/
inductive TurnEffect (s : State) (x : Turn) : State → Prop
  | idle : TurnEffect s x s
  /-- A read, or a write that is ignored: the bus answers, and a read may draw a free value. -/
  | answered (r : Answer) (d : Nat) : TurnEffect s x { s with responses := r :: s.responses, draws := d }
  | wrote (host : Nat) (off : BitVec 9) (v : Word) (r : Answer) (u : State) (hx : x = .write host off 4 v)
      (hr : s.inReset = false) (hu : WriteEffect s off.toNat v u) : TurnEffect s x (u.respond r)
  /-- The command in flight fails a check at completion (log entry 5). -/
  | failed (e : ErrorCode) (c : Word) (hr : s.inReset = false) (he : e ≠ .eNone) : TurnEffect s x (s.reject e c).retire
  | completed (c : Word) (i : Instr) (u : State) (hx : x = .engine) (hr : s.inReset = false) (hc : s.pend = some c)
      (hd : decode s.primPresent c = .ok i) (hmet : RequirementsMet i s) (hu : EffectKind i s u) : TurnEffect s x u.finish
  | reset (level : Bool) (hx : x = .assertReset ∨ (x = .releaseReset ∧ s.inReset = true)) :
      TurnEffect s x { s.resetItems with inReset := level }

theorem decode_ne_eNone (cap : Byte) (c : Word) : decode cap c ≠ .error .eNone := by
  have := encodingCheck_ne_eNone cap c
  unfold decode
  split
  · simp_all
  · split <;> simp

theorem turnEffect_engine {s t : State} (h : engineTurn s = .next t) : TurnEffect s .engine t := by
  rcases engineTurn_cases s with hidle | ⟨c, hr, hc, ⟨i, hd, hexec⟩ | ⟨e, hd, hfail⟩⟩
  · cases hidle.symm.trans h
    exact .idle
  · rw [hexec] at h
    rcases exec_rejects_or_completes i s with ⟨e, he, hrej⟩ | ⟨hmet, hdone⟩
    · cases hrej.symm.trans h
      exact .failed e (encode i) hr he
    · cases hdone.symm.trans h
      exact .completed c i _ rfl hr hc hd hmet (effectKind_effectOf i s)
  · cases hfail.symm.trans h
    exact .failed e c hr fun he => decode_ne_eNone s.primPresent c (he ▸ hd)

theorem turnEffect_write (s : State) (host : Nat) (off : BitVec 9) (bytes : Nat) (v : Word) :
    TurnEffect s (.write host off bytes v) (hostWrite s host off bytes v) := by
  obtain ⟨u, r, hw, hu⟩ := hostWrite_cases s host off bytes v
  rw [hw]
  rcases hu with rfl | ⟨hr, rfl, hoff, hu⟩
  · exact .answered r u.draws
  · refine .wrote host off v r u rfl hr ?_
    rcases hu with ⟨ho, rfl⟩ | ⟨ho, rfl⟩ | ⟨hb, rfl⟩ | ⟨ho, hb, e, he, rfl⟩ | ⟨ho, hb, hc, rfl⟩ | ⟨hb, hlo, hhi, rfl⟩
    · exact .ctrl ho
    · exact .status ho
    · exact .overrun hb
    · exact .rejected e ho hb he
    · exact .accepted ho hb hc
    · exact .stored hb hlo hhi hoff

/-- All a turn can do. -/
theorem turn_effect {s t : State} {x : Turn} (h : turn s x = .next t) : TurnEffect s x t := by
  cases x with
  | read host off bytes =>
    cases h
    obtain ⟨r, d, hread⟩ := hostRead_frame s host off bytes
    rw [hread]
    exact .answered r d
  | write host off bytes v =>
    cases h
    exact turnEffect_write s host off bytes v
  | engine => exact turnEffect_engine h
  | assertReset =>
    cases h
    exact .reset true (.inl rfl)
  | releaseReset =>
    cases h
    unfold State.releaseReset
    split
    · next hr => exact .reset false (.inr ⟨rfl, hr⟩)
    · exact .idle

/-- The state a turn of a step acts on: its turn is taken from the agenda. -/
def State.advance (s : State) : State := { s with agenda := s.agenda.tail }

theorem advance_of_nil {s : State} (h : s.agenda = []) : s.advance = s := by
  cases s
  cases h
  rfl

theorem step_eq_turn (s : State) : step s = turn s.advance (nextTurn s) := by
  rcases step_cases s with ⟨h, hstep⟩ | ⟨x, rest, h, hstep⟩
  · rw [hstep, nextTurn, h, advance_of_nil h, turn]
  · rw [hstep, nextTurn, State.advance, h, List.tail_cons]

/-- All a step can do. -/
theorem step_effect {s t : State} (h : step s = .next t) : TurnEffect s.advance (nextTurn s) t :=
  turn_effect (step_eq_turn s ▸ h)

end Sys2Proof.Machine

/-! ## The invariant

Each clause is kept by each kind of effect; the clauses about tags and memory do not mention `pend`, so a command's effect
keeps them before completion ends the command. -/

namespace Sys2Proof.Machine

/-- A reset makes the invariant hold, from whatever state: nothing is listed, in flight, tagged or recorded. -/
theorem inv_resetItems (s : State) (level : Bool) : ({ s.resetItems with inReset := level } : State).Inv where
  memory := ⟨rfl, fun _ h => nomatch h⟩
  pending := fun _ h => nomatch h
  layoutTag := ⟨fun _ => ⟨rfl, fun k h => by simp [State.reset]⟩, fun h => nomatch h⟩
  materialTag := ⟨fun _ => ⟨rfl, fun k h => by simp [State.reset]⟩, fun h => nomatch h⟩
  errorRecord := fun _ => ⟨rfl, rfl⟩
  held := fun _ => rfl

/-- Settles O14: the reset state is what a reset makes of it. -/
theorem invariantHoldsAtReset : Obligations.InvariantHoldsAtReset := inv_resetItems State.reset false

theorem present_of_layoutIs {s : State} {p : Prim} (hinv : s.layoutTagOk) (h : s.layoutIs p = true) :
    s.present p = true ∧ ∀ k, (hk : k < 16) → primWords p ≤ k → s.w[k] = 0#32 := by
  obtain ⟨hvalid, hcode⟩ : s.lvalid = true ∧ s.lprim = p.code := by simpa [State.layoutIs] using h
  obtain ⟨q, hq, hrest⟩ := hinv.2 hvalid
  rwa [Prim.code_injective (hcode.symm.trans hq)]

/-! ### Effects -/

theorem memoryOk_writeBytes {s : State} (a : Nat) (vs : List Byte) (h : s.memoryOk) (hlo : dataBase ≤ a)
    (hhi : a + vs.length ≤ 0x170) : ({ s with mem := s.mem.writeBytes a vs } : State).memoryOk := by
  obtain ⟨hwf, hcells⟩ := h
  refine ⟨Memory.wf_writeBytes a vs hwf, fun cell hcell => ?_⟩
  rcases Memory.mem_writeBytes hcell with hin | hold
  · omega
  · exact hcells cell hold

/-- A word file that is 0 but for the first words of a primitive of the build is true of that primitive's tag. -/
theorem layoutTagOk_toInternal {s : State} {p : Prim} {inWords : List Byte → List Word} (hp : s.present p = true)
    (hlen : (inWords (s.dataBytes (4 * primWords p))).length = primWords p) : (toInternal p inWords s).layoutTagOk := by
  refine ⟨fun h => (nomatch h), fun _ => ⟨p, rfl, hp, fun k hk hpk => ?_⟩⟩
  simp only [toInternal_w]
  rw [overlay_outside _ _ k hk (by omega), tabulate_getElem]

/-- Rounds keep the words that the primitive of the layout does not use. -/
theorem layoutTagOk_rounds {s : State} {p : Prim} {w : Words} (h : s.layoutTagOk) (hp : s.layoutIs p = true)
    (hw : SameFrom (primWords p) s.w w) : ({ s with w := w } : State).layoutTagOk := by
  obtain ⟨hpresent, hzero⟩ := present_of_layoutIs h hp
  obtain ⟨hvalid, hcode⟩ : s.lvalid = true ∧ s.lprim = p.code := by simpa [State.layoutIs] using hp
  refine ⟨fun hf => ?_, fun _ => ⟨p, hcode, hpresent, fun k hk hpk => (hw k hk hpk).trans (hzero k hk hpk)⟩⟩
  exact absurd (hvalid.symm.trans hf) (by decide)

/-- What the effect of a command keeps, before completion ends the command. -/
structure EffectKeeps (s u : State) : Prop where
  memory : u.memoryOk
  layoutTag : u.layoutTagOk
  materialTag : u.materialTagOk
  record : u.ecode = s.ecode ∧ u.err = s.err ∧ u.ecmd = s.ecmd
  level : u.inReset = s.inReset

theorem effectKeeps_of_effectKind {s u : State} {i : Instr} (hinv : s.Inv) (hmet : RequirementsMet i s)
    (hu : EffectKind i s u) : EffectKeeps s u := by
  obtain ⟨hmem, -, hlay, hmat, -, -⟩ := hinv
  cases hu with
  | nop hi => exact ⟨hmem, hlay, hmat, ⟨rfl, rfl, rfl⟩, rfl⟩
  | clear hi =>
    refine ⟨⟨rfl, fun _ h => nomatch h⟩, ⟨fun _ => ⟨rfl, fun k h => ?_⟩, fun h => nomatch h⟩,
      ⟨fun _ => ⟨rfl, fun k h => ?_⟩, fun h => nomatch h⟩, ⟨rfl, rfl, rfl⟩, rfl⟩ <;> simp
  | toint p inWords hop hp hlen =>
    have hpresent := hmet.present p (prim?_of_layoutGiven hp)
    exact ⟨hmem, layoutTagOk_toInternal hpresent hlen, hmat, ⟨rfl, rfl, rfl⟩, rfl⟩
  | toext p outBytes hop hp hlen =>
    have hwords : primWords p ≤ 16 := by cases p <;> decide
    exact ⟨memoryOk_writeBytes dataBase _ hmem (Nat.le_refl _) (by rw [hlen, dataBase]; omega), hlay, hmat,
      ⟨rfl, rfl, rfl⟩, rfl⟩
  | sched p hp =>
    have hpresent := hmet.present p (prim?_of_scheduled hp)
    exact ⟨hmem, hlay, ⟨fun h => (nomatch h), fun _ => ⟨p, rfl, keyed_of_scheduled hp, hpresent⟩⟩, ⟨rfl, rfl, rfl⟩, rfl⟩
  | rounds p w hop hp hw =>
    exact ⟨hmem, layoutTagOk_rounds hlay (hmet.layout p hp) hw, hmat, ⟨rfl, rfl, rfl⟩, rfl⟩

theorem State.Inv.finish {s u : State} (hinv : s.Inv) (hr : s.inReset = false) (hu : EffectKeeps s u) : u.finish.Inv := by
  obtain ⟨hmem, hlay, hmat, ⟨hecode, herr, hecmd⟩, hlevel⟩ := hu
  refine ⟨hmem, fun _ h => (nomatch h), hlay, hmat, fun h => ?_, fun h => ?_⟩
  · obtain ⟨herr', hecmd'⟩ := hinv.errorRecord (hecode.symm.trans h)
    exact ⟨herr.trans herr', hecmd.trans hecmd'⟩
  · exact absurd (h.symm.trans (hlevel.trans hr)) (by decide)

/-- Outside reset the clause on the items held in reset says nothing. -/
theorem heldInReset_of_not {s : State} (h : s.inReset = false) : s.heldInReset :=
  fun hr => absurd (h.symm.trans hr) (by decide)

theorem errorRecordOk_reject (s : State) (c : Word) {e : ErrorCode} (he : e ≠ .eNone) : (s.reject e c).errorRecordOk :=
  fun h => absurd h he

/-! ### Turns -/

theorem State.Inv.failed {s : State} (hinv : s.Inv) (hr : s.inReset = false) {e : ErrorCode} (c : Word) (he : e ≠ .eNone) :
    (s.reject e c).retire.Inv :=
  { hinv with
    pending := fun _ h => nomatch h
    errorRecord := errorRecordOk_reject s c he
    held := heldInReset_of_not hr }

theorem inv_of_writeEffect {s u : State} {off : Nat} {v : Word} (hinv : s.Inv) (hr : s.inReset = false)
    (hu : WriteEffect s off v u) : u.Inv := by
  cases hu with
  | ctrl hoff => exact { hinv with held := heldInReset_of_not hr }
  | status hoff =>
    refine { hinv with errorRecord := fun h => ?_, held := heldInReset_of_not hr }
    obtain ⟨herr, hecmd⟩ := hinv.errorRecord h
    exact ⟨by simp [herr], hecmd⟩
  | overrun hb => exact { hinv with held := heldInReset_of_not hr }
  | rejected e hoff hb he =>
    have hne : e ≠ .eNone := fun h => issueCheck_ne_eNone s v (h ▸ he)
    exact { hinv with errorRecord := errorRecordOk_reject s v hne, held := heldInReset_of_not hr }
  | accepted hoff hb hc =>
    refine { hinv with pending := fun c h => ?_, held := heldInReset_of_not hr }
    cases h
    exact hc
  | stored hb hlo hhi hoff =>
    have hmem := memoryOk_writeBytes off (putLE32 v) hinv.memory hlo (by rw [putLE32_length]; omega)
    exact { hinv with memory := hmem, held := heldInReset_of_not hr }

/-- The invariant says nothing of the model's own fields. -/
theorem State.Inv.withOwn {s : State} (hinv : s.Inv) (a : List Turn) (r : List Answer) (d : Nat) : (s.withOwn a r d).Inv :=
  { hinv with held := fun hr => congrArg (fun u : State => u.withOwn a r d) (hinv.held hr) }

theorem State.Inv.advance {s : State} (hinv : s.Inv) : s.advance.Inv := hinv.withOwn s.agenda.tail s.responses s.draws

/-- Every turn keeps the invariant. -/
theorem inv_of_turnEffect {s t : State} {x : Turn} (hinv : s.Inv) (ht : TurnEffect s x t) : t.Inv := by
  cases ht with
  | idle => exact hinv
  | answered r d => exact hinv.withOwn s.agenda (r :: s.responses) d
  | wrote host off v r u hx hr hu =>
    exact (inv_of_writeEffect hinv hr hu).withOwn u.agenda (r :: u.responses) u.draws
  | failed e c hr he => exact hinv.failed hr c he
  | completed c i u hx hr hc hd hmet hu => exact hinv.finish hr (effectKeeps_of_effectKind hinv hmet hu)
  | reset level hx => exact inv_resetItems s level

/-- Settles O15: a step is a turn of the state whose agenda is shorter by it, and every turn keeps the invariant. -/
theorem everyStepKeepsTheInvariant : Obligations.EveryStepKeepsTheInvariant := by
  intro s t hinv h
  exact inv_of_turnEffect hinv.advance (step_effect h)

end Sys2Proof.Machine

/-! ## What a step leaves alone -/

namespace Sys2Proof.Machine

theorem WriteEffect.frame {s u : State} {off : Nat} {v : Word} (hu : WriteEffect s off v u) :
    u.w = s.w ∧ u.mkey = s.mkey ∧ u.mprim = s.mprim ∧ u.mvalid = s.mvalid ∧ u.lprim = s.lprim ∧ u.lvalid = s.lvalid := by
  cases hu <;> exact ⟨rfl, rfl, rfl, rfl, rfl, rfl⟩

theorem WriteEffect.primPresent {s u : State} {off : Nat} {v : Word} (hu : WriteEffect s off v u) :
    u.primPresent = s.primPresent := by
  cases hu <;> rfl

/-- A host write changes only bytes of its word. -/
theorem WriteEffect.read_mem {s u : State} {off a : Nat} {v : Word} (hu : WriteEffect s off v u)
    (ha : u.mem.read a ≠ s.mem.read a) :
    s.busy = false ∧ 0x100 ≤ off ∧ off < 0x170 ∧ off % 4 = 0 ∧ off ≤ a ∧ a < off + 4 := by
  cases hu with
  | stored hb hlo hhi hoff =>
    have hin : ¬(a < off ∨ off + (putLE32 v).length ≤ a) := fun hout => ha (Memory.read_writeBytes_outside _ hout)
    rw [putLE32_length] at hin
    exact ⟨hb, hlo, hhi, hoff, by omega, by omega⟩
  | _ => exact absurd rfl ha

/-- The word file changes only by `CLEAR`, `TOINT` and `ROUNDS`. -/
theorem EffectKind.op_of_w {s u : State} {i : Instr} (hu : EffectKind i s u) (hw : u.w ≠ s.w) :
    (opField (encode i)).toNat ∈ [1, 2, 5] := by
  cases hu with
  | clear hi => subst hi; decide
  | toint p inWords hop hp hlen => simp [hop]
  | rounds p w hop hp hw => simp [hop]
  | _ => exact absurd rfl hw

/-- The layout tag changes only by `CLEAR`, and by `TOINT` to the primitive it names. -/
theorem EffectKind.layoutGiven_of_tag {s u : State} {i : Instr} (hu : EffectKind i s u)
    (htag : ¬(u.lprim = s.lprim ∧ u.lvalid = s.lvalid)) :
    i = .clear ∨ ∃ p, layoutGiven i = some p ∧ u.lprim = p.code ∧ u.lvalid = true := by
  cases hu with
  | clear hi => exact .inl hi
  | toint p inWords hop hp hlen => exact .inr ⟨p, hp, rfl, rfl⟩
  | _ => exact absurd ⟨rfl, rfl⟩ htag

/-- A byte of the buffers changes only by `CLEAR`, and by `TOEXT` in the bytes of its primitive. -/
theorem EffectKind.read_mem {s u : State} {i : Instr} {a : Nat} (hu : EffectKind i s u)
    (ha : u.mem.read a ≠ s.mem.read a) :
    i = .clear ∨ ∃ p, (opField (encode i)).toNat = 3 ∧ i.prim? = some p ∧ 0x100 ≤ a ∧ a < 0x100 + 4 * primWords p := by
  cases hu with
  | clear hi => exact .inl hi
  | toext p outBytes hop hp hlen =>
    have hin : ¬(a < dataBase ∨ dataBase + (outBytes (firstWords (primWords p) s.w)).length ≤ a) :=
      fun hout => ha (Memory.read_writeBytes_outside _ hout)
    rw [hlen, dataBase] at hin
    exact .inr ⟨p, hop, hp, by omega, by omega⟩
  | _ => exact absurd rfl ha

theorem EffectKind.primPresent {s u : State} {i : Instr} (hu : EffectKind i s u) : u.primPresent = s.primPresent := by
  cases hu <;> rfl

theorem TurnEffect.primPresent {s t : State} {x : Turn} (ht : TurnEffect s x t) : t.primPresent = s.primPresent := by
  cases ht with
  | wrote host off v r u hx hr hu => exact hu.primPresent
  | completed c i u hx hr hc hd hmet hu => exact hu.primPresent
  | _ => rfl

/-- Settles O21: every turn keeps `PRIM_PRESENT`, of which `CAP` is the zero extension. -/
theorem capIsConstant : Obligations.CapIsConstant := by
  intro s t h
  have hp : t.primPresent = s.primPresent := (step_effect h).primPresent
  refine ⟨by rw [State.cap, State.cap, hp], ?_⟩
  rw [State.cap, hp, BitVec.toNat_setWidth, Nat.mod_eq_of_lt (by omega)]

/-- Settles O16: beside a reset and the three kinds of commands every effect of a turn keeps the word file. -/
theorem onlyCommandsWriteTheStateWords : Obligations.OnlyCommandsWriteTheStateWords := by
  intro s t h hw
  cases step_effect h with
  | wrote host off v r u hx hr hu =>
    obtain ⟨hsame, -⟩ := hu.frame
    exact absurd hsame hw
  | completed c i u hx hr hc hd hmet hu => exact .inr ⟨i, ⟨hx, hr, c, hc, hd⟩, hu.op_of_w hw⟩
  | reset level hx => exact .inl hx
  | _ => exact absurd rfl hw

/-- Settles O18: beside a reset, `CLEAR` and `TOINT` every effect of a turn keeps the layout tag. -/
theorem layoutTagChangesOnlyByTointClearReset : Obligations.LayoutTagChangesOnlyByTointClearReset := by
  intro s t h htag
  cases step_effect h with
  | wrote host off v r u hx hr hu =>
    obtain ⟨-, -, -, -, hprim, hvalid⟩ := hu.frame
    exact absurd ⟨hprim, hvalid⟩ htag
  | completed c i u hx hr hc hd hmet hu => exact .inr ⟨i, ⟨hx, hr, c, hc, hd⟩, hu.layoutGiven_of_tag htag⟩
  | reset level hx => exact .inl hx
  | _ => exact absurd ⟨rfl, rfl⟩ htag

/-- Settles O19: a host write and a `TOEXT` leave the bytes outside what they store, the other effects every byte but those a
reset or `CLEAR` sets to 0. -/
theorem bufferBytesChangeOnlyByTheirWriters : Obligations.BufferBytesChangeOnlyByTheirWriters := by
  intro s t a h ha
  cases step_effect h with
  | wrote host off v r u hx hr hu =>
    have hx' : nextTurn s = .write host (BitVec.ofNat 9 off.toNat) 4 v := by rw [BitVec.ofNat_toNat, BitVec.setWidth_eq, hx]
    exact .inr (.inl ⟨off.toNat, v, ⟨⟨host, hx'⟩, hr⟩, hu.read_mem ha⟩)
  | completed c i u hx hr hc hd hmet hu => exact .inr (.inr ⟨i, ⟨hx, hr, c, hc, hd⟩, hu.read_mem ha⟩)
  | reset level hx => exact .inl hx
  | _ => exact absurd rfl ha

end Sys2Proof.Machine

/-! ## Host accesses -/

namespace Sys2Proof.Machine

/-! ### The address map (20_memory.md R54) -/

/-- Above the registers the address map is six ranges. -/
theorem regionOf_above {off : Nat} (h : 0x018 ≤ off) :
    regionOf off =
      if off < 0x100 then .reserved
      else if off < 0x140 then .data off
      else if off < 0x170 then .key off
      else if off < 0x180 then .reserved
      else if off < 0x1C0 then .state ((off - stateBase) / 4)
      else .reserved := by
  rw [regionOf, if_neg (by omega), if_neg (by omega), if_neg (by omega), if_neg (by omega), if_neg (by omega),
    if_neg (by omega)]

theorem regionOf_reserved {off : Nat} (h : reservedOffset off) : regionOf off = .reserved := by
  obtain ⟨-, ⟨hlo, hhi⟩ | ⟨hlo, hhi⟩ | ⟨hlo, hhi⟩⟩ := h
  · rw [regionOf_above hlo, if_pos (by omega)]
  · rw [regionOf_above (by omega), if_neg (by omega), if_neg (by omega), if_neg (by omega), if_pos (by omega)]
  · rw [regionOf_above (by omega), if_neg (by omega), if_neg (by omega), if_neg (by omega), if_neg (by omega),
      if_neg (by omega)]

theorem regionOf_data {off : Nat} (hlo : 0x100 ≤ off) (hhi : off < 0x140) : regionOf off = .data off := by
  rw [regionOf_above (by omega), if_neg (by omega), if_pos hhi]

theorem regionOf_key {off : Nat} (hlo : 0x140 ≤ off) (hhi : off < 0x170) : regionOf off = .key off := by
  rw [regionOf_above (by omega), if_neg (by omega), if_neg (by omega), if_pos hhi]

theorem regionOf_state {k : Nat} (h : k < 16) : regionOf (0x180 + 4 * k) = .state k := by
  rw [regionOf_above (by omega), if_neg (by omega), if_neg (by omega), if_neg (by omega), if_neg (by omega),
    if_pos (by omega), stateBase, Nat.add_sub_cancel_left, Nat.mul_div_cancel_left k (by decide)]

/-! ### Legal accesses (20_memory.md R52, R53) -/

theorem legalAccess_ofNat {off : Nat} (hlt : off < 0x200) (hoff : off % 4 = 0) :
    (BitVec.ofNat 9 off).toNat = off ∧ legalAccess (BitVec.ofNat 9 off) 4 = true := by
  have hnat : (BitVec.ofNat 9 off).toNat = off := by rw [BitVec.toNat_ofNat, Nat.mod_eq_of_lt hlt]
  exact ⟨hnat, by rw [legalAccess, hnat, hoff]; rfl⟩

theorem writeMakes_of_legal {s : State} {off : Nat} (v : Word) (hr : s.inReset = false) (hlt : off < 0x200)
    (hoff : off % 4 = 0) : WriteMakes s off v (writeRegion s v (regionOf off)) := by
  intro host
  obtain ⟨hnat, hlegal⟩ := legalAccess_ofNat hlt hoff
  simp [turn, hostWrite, hr, hlegal, hnat, State.respond]

/-- A read is exact while idle, and of the regions that a command cannot change. -/
theorem readsAs_of_legal {s : State} {off : Nat} {g : Region} (hr : s.inReset = false) (hlt : off < 0x200)
    (hoff : off % 4 = 0) (hg : regionOf off = g) (hexact : (s.busy && g.unspecifiedWhileBusy) = false) :
    ReadsAs s off (readRegion s g) := by
  intro host
  obtain ⟨hnat, hlegal⟩ := legalAccess_ofNat hlt hoff
  simp [turn, hostRead, readWindow, hr, hlegal, hnat, hg, hexact, State.respond]

/-! ### The registers -/

theorem ctrl_eq_ofNat (s : State) : s.ctrl = BitVec.ofNat 32 (2 * s.ieErr.toNat + s.ieDone.toNat) := by
  unfold State.ctrl
  cases s.ieErr <;> cases s.ieDone <;> rfl

theorem cap_eq_ofNat (s : State) : s.cap = BitVec.ofNat 32 s.primPresent.toNat := by
  rw [State.cap, BitVec.ofNat_toNat]

/-- What is written to `CTRL` is read back in its two bits. -/
theorem ctrl_writeCtrl (s : State) (v : Word) : (s.writeCtrl v).ctrl = v &&& 3#32 := by
  refine BitVec.eq_of_getLsbD_eq fun i hi => ?_
  rw [State.ctrl, BitVec.getLsbD_append, BitVec.getLsbD_append, BitVec.getLsbD_and]
  match i with
  | 0 => simp
  | 1 => simp
  | i + 2 => simp [BitVec.getLsbD_ofNat, Nat.testBit_add_one]

theorem toNat_append_eq_add {m n : Nat} (x : BitVec m) (y : BitVec n) : (x ++ y).toNat = 2 ^ n * x.toNat + y.toNat := by
  rw [BitVec.toNat_append, Nat.shiftLeft_eq, Nat.mul_comm, Nat.two_pow_add_eq_or_of_lt y.isLt]

/-- Settles O30: the fields of `STATUS` and the reserved zeros between them, appended, are a sum. -/
theorem statusFieldsStandWhereTheyShould : Obligations.StatusFieldsStandWhereTheyShould := by
  intro s
  simp only [State.status, toNat_append_eq_add, BitVec.toNat_ofBool, BitVec.toNat_zero]
  omega

/-- Settles O24: each offset of the statement is a legal one of a known region, whose reads are exact. -/
theorem readsReturnTheAddressMapValue : Obligations.ReadsReturnTheAddressMapValue := by
  intro s hr
  have exactRead : ∀ {off : Nat} {g : Region}, off < 0x200 → off % 4 = 0 → regionOf off = g →
      g.unspecifiedWhileBusy = false → ReadsAs s off (readRegion s g) := fun hlt hoff hg hx =>
    readsAs_of_legal hr hlt hoff hg (by rw [hx, Bool.and_false])
  refine ⟨exactRead (g := .id) (by decide) rfl rfl rfl, cap_eq_ofNat s ▸ exactRead (g := .cap) (by decide) rfl rfl rfl,
    ctrl_eq_ofNat s ▸ exactRead (g := .ctrl) (by decide) rfl rfl rfl, exactRead (g := .status) (by decide) rfl rfl rfl,
    exactRead (g := .cmd) (by decide) rfl rfl rfl, exactRead (g := .ecmd) (by decide) rfl rfl rfl, fun off hoff => ?_,
    fun j hj => ?_, fun hb => ⟨fun j hj => ?_, fun k hk => ?_⟩⟩
  · obtain ⟨h4, hrange⟩ := id hoff
    exact exactRead (by omega) h4 (regionOf_reserved hoff) rfl
  · exact exactRead (by omega) (by omega) (regionOf_key (by omega) (by omega)) rfl
  · exact readsAs_of_legal hr (by omega) (by omega) (regionOf_data (by omega) (by omega)) (by rw [hb]; rfl)
  · have hread := readsAs_of_legal hr (by omega) (by omega) (regionOf_state hk) (by rw [hb]; rfl)
    simpa [readRegion, hk] using hread

/-- Settles O29: the record that `STATUS` writes make, flag by flag. -/
theorem statusWritesClearOnlyTheirFlags : Obligations.StatusWritesClearOnlyTheirFlags := by
  intro s v hr
  have hflag : ∀ flag clear : Bool, (if clear then false else flag) = (flag && !clear) := by decide
  simp only [hflag]
  exact writeMakes_of_legal v hr (by decide) (by decide)

/-- Settles O31: a `CTRL` write makes the state with the two enables, which reads back through `ctrl`. -/
theorem ctrlHoldsTheEnables : Obligations.CtrlHoldsTheEnables := by
  refine ⟨fun s v hr => ⟨s.writeCtrl v, writeMakes_of_legal v hr (by decide) (by decide), rfl, ?_, rfl⟩, rfl⟩
  rw [← ctrl_writeCtrl s v]
  exact readsAs_of_legal (g := .ctrl) hr (by decide) (by decide) rfl (Bool.and_false _)

/-- Settles O32: the formula of R35, read as a proposition. -/
theorem irqIsTheEnabledFlags : Obligations.IrqIsTheEnabledFlags := by
  refine ⟨fun s => ?_, rfl⟩
  simp only [State.irq, Bool.or_eq_true, Bool.and_eq_true]

end Sys2Proof.Machine

/-! ## Issue of an encoded command -/

namespace Sys2Proof.Machine

/-- While idle a `CMD` write of a word that a check rejects records the check's code. -/
theorem writeMakes_cmd_rejected {s : State} {c : Word} {e : ErrorCode} (hr : s.inReset = false) (hb : s.busy = false)
    (h : issueCheck s c = some e) : WriteMakes s 0x010 c (s.reject e c) := by
  have hissue : s.issue c = s.reject e c := by simp [State.issue, hb, h]
  exact hissue ▸ writeMakes_of_legal c hr (by decide) (by decide)

/-- While idle a `CMD` write of a word that no check rejects puts it in flight. -/
theorem writeMakes_cmd_accepted {s : State} {c : Word} (hr : s.inReset = false) (hb : s.busy = false)
    (h : issueCheck s c = none) : WriteMakes s 0x010 c (s.accept c) := by
  have hissue : s.issue c = s.accept c := by simp [State.issue, hb, h]
  exact hissue ▸ writeMakes_of_legal c hr (by decide) (by decide)

section encoded
variable {cap : Byte} {p : Prim}

theorem primAbsent_eq_false (hcap : cap.getLsbD p.code.toNat = true) : primAbsent cap p.code = false := by
  have := p.code_lt
  simp [primAbsent, hcap]
  omega

/-- A word of `TOINT`, `TOEXT`, or `SCHED` of a keyed primitive, of the build. -/
theorem encodingCheck_plainWord {op : Nibble} (hop : op = 2#4 ∨ op = 3#4 ∨ (op = 4#4 ∧ p.keyed = true))
    (hcap : cap.getLsbD p.code.toNat = true) : encodingCheck cap (plainWord op p) = none := by
  have habs := primAbsent_eq_false hcap
  rcases hop with rfl | rfl | ⟨rfl, hkeyed⟩ <;>
    simp_all [encodingCheck, plainWord, unusedFieldSet, opSched, opRounds]

/-- A word of `ROUNDS` of the build, whose unused fields are 0, whose `VAR` is legal and whose range is right. -/
theorem encodingCheck_roundsWord {start count : Byte} {var : Nibble} (hcap : cap.getLsbD p.code.toNat = true)
    (hunused : unusedFieldSet (commandWord 5#4 p.code start count var) = false)
    (hvar : varIllegal (commandWord 5#4 p.code start count var) = false)
    (hrange : outOfRange (commandWord 5#4 p.code start count var) = false) :
    encodingCheck cap (commandWord 5#4 p.code start count var) = none := by
  have habs := primAbsent_eq_false hcap
  simp [encodingCheck, habs, hunused, hvar, hrange, opSched]

end encoded

/-- A well-formed command of the build passes the encoding checks (30_encoding.md R84 to R86; 60_exceptions.md R342). -/
theorem encodingCheck_encode {cap : Byte} {i : Instr} (hwf : i.wellFormed = true) (hcap : i.builtIn cap = true) :
    encodingCheck cap (encode i) = none := by
  cases i
  case nop | clear => rfl
  case tointGift | tointSkinny | tointAscon | tointGrain | tointSparkle | tointJambu | tointPhoton | tointXoodoo =>
    exact encodingCheck_plainWord (.inl rfl) hcap
  case toextGift | toextSkinny | toextAscon | toextGrain | toextSparkle | toextJambu | toextPhoton | toextXoodoo =>
    exact encodingCheck_plainWord (.inr (.inl rfl)) hcap
  case schedGift | schedSkinny | schedJambu => exact encodingCheck_plainWord (.inr (.inr ⟨rfl, rfl⟩)) hcap
  case roundsGrain count width mode =>
    refine encodingCheck_roundsWord (p := .grain) hcap (by simp [unusedFieldSet, usesStart, usesCount, usesVar, opRounds])
      (by cases width <;> cases mode <;> simp [varIllegal, grainVar]) ?_
    cases width <;> simpa [outOfRange, Instr.wellFormed] using hwf
  case roundsSparkle start count branches =>
    exact encodingCheck_roundsWord (p := .sparkle) hcap (by simp [unusedFieldSet, usesStart, usesCount, usesVar, opRounds])
      (by cases branches <;> simp [varIllegal, Branches.var]) (by simp [outOfRange])
  case roundsJambu count =>
    exact encodingCheck_roundsWord (p := .jambu) hcap (by simp [unusedFieldSet, usesStart, usesCount, usesVar, opRounds])
      (by simp [varIllegal]) (by simp [outOfRange])
  all_goals
    refine encodingCheck_roundsWord hcap (by simp [unusedFieldSet, usesStart, usesCount, usesVar, opRounds])
      (by simp [varIllegal]) ?_
    simpa [outOfRange, Instr.wellFormed, roundsWithin] using hwf

/-- The tags that a command needs, first the layout's, then the material's (10_state.md R39, R40; 60_exceptions.md R341). -/
theorem tagCheck_encode (s : State) (i : Instr) :
    tagCheck s (encode i) =
      if (layoutNeeded i).any (fun p => !s.layoutIs p) then some .eLayout
      else if (materialNeeded i).any (fun p => !s.materialIs p) then some .eMat
      else none := by
  cases i <;> simp [tagCheck, encode, plainWord, layoutNeeded, materialNeeded, State.layoutIs, State.materialIs,
    opToext, opRounds, Prim.keyed]

theorem issueCheck_encode {s : State} {i : Instr} (hwf : i.wellFormed = true) (hcap : i.builtIn s.primPresent = true) :
    issueCheck s (encode i) = tagCheck s (encode i) := by
  rw [issueCheck, encodingCheck_encode hwf hcap]

/-- Settles O9: a well-formed command of the build passes the encoding checks, so the tags decide. -/
theorem tagsDecideAcceptance : Obligations.TagsDecideAcceptance := by
  intro s i hr hb hwf hcap
  have hcheck := (issueCheck_encode hwf hcap).trans (tagCheck_encode s i)
  refine ⟨fun hlay hmat => ?_, fun p hp hlay => ?_, fun p hp hlay hp' hmat => ?_⟩
  · have hnone : issueCheck s (encode i) = none := by
      cases hl : layoutNeeded i <;> cases hm : materialNeeded i <;> simp_all
    exact writeMakes_cmd_accepted hr hb hnone
  · have hlayout : issueCheck s (encode i) = some .eLayout := by simp [hcheck, hp, hlay]
    exact writeMakes_cmd_rejected hr hb hlayout
  · have hmaterial : issueCheck s (encode i) = some .eMat := by simp [hcheck, hp, hlay, hp', hmat]
    exact writeMakes_cmd_rejected hr hb hmaterial

end Sys2Proof.Machine

/-! ## Values at reset and tables -/

namespace Sys2Proof.Machine

/-- Settles O22: each item is a field of the reset state; `W`, `MKEY` are constant files, and nothing is listed in memory. -/
theorem resetHoldsTheSpecValues : Obligations.ResetHoldsTheSpecValues := by
  refine ⟨rfl, rfl, fun k h => ?_, fun i => ⟨rfl, rfl⟩, fun i h => ?_, rfl, rfl, rfl, rfl, rfl, rfl, rfl, rfl, rfl, rfl, rfl,
    rfl, rfl, rfl, rfl⟩ <;> simp [State.reset]

/-- Settles O57: the tables are finite, and so are the 256 inputs of SB8. -/
theorem fixedTablesAgree : Obligations.FixedTablesAgree := by
  refine ⟨rfl, rfl, rfl, rfl, rfl, rfl, rfl, rfl, rfl, rfl, rfl, ?_⟩
  decide

end Sys2Proof.Machine

/-! ## Runs (70_reset_and_hazards.md R395) -/

namespace Sys2Proof.Machine

theorem turn_next (s : State) (x : Turn) : ∃ t, turn s x = .next t := by
  cases x with
  | engine => exact engineTurn_next s
  | _ => exact ⟨_, rfl⟩

theorem step_next (s : State) : ∃ t, step s = .next t := by
  rw [step_eq_turn]
  exact turn_next s.advance (nextTurn s)

theorem step_agenda {s t : State} (h : step s = .next t) : t.agenda = s.agenda.tail :=
  turn_agenda s.advance t (nextTurn s) (step_eq_turn s ▸ h)

/-- Between resets and while one is held the engine's turn leaves no command in flight. -/
theorem engineTurn_idle {s t : State} (hheld : s.heldInReset) (h : engineTurn s = .next t) : t.busy = false := by
  unfold engineTurn at h
  split at h
  · next hr =>
    cases h
    exact congrArg State.busy (hheld hr)
  · split at h
    · next hp =>
      cases h
      rw [State.busy, hp, Option.isSome_none]
    · split at h
      · next i _ =>
        rcases exec_cases i s with ⟨e, -, hrej⟩ | hdone
        · cases hrej.symm.trans h
          rfl
        · cases hdone.symm.trans h
          rfl
      · cases h
        rfl

theorem observeWithin_of_runOver {s : State} {host : Nat} (h : s.runOver host = true) (fuel : Nat) :
    s.observeWithin host fuel = some (s.observation host) := by
  cases fuel <;> simp [State.observeWithin, h]

theorem observeWithin_of_step {s t : State} {host : Nat} (h : s.runOver host = false) (ht : step s = .next t) (fuel : Nat) :
    s.observeWithin host (fuel + 1) = t.observeWithin host fuel := by
  simp [State.observeWithin, h, ht]

theorem run_succ_of_step {M : Host.Core} {s t : M.State} (ht : M.step s = .next t) (n : Nat) :
    M.run (n + 1) s = M.run n t := by
  rw [Host.Core.run, ht]

theorem observes_observation (host : Nat) (t : State) : Observes host t (t.observation host) where
  constants := ⟨rfl, rfl⟩
  words := fun _ _ => rfl
  data := fun i h => tabulate_getElem _ i h
  key := fun i h => tabulate_getElem _ i h
  material := ⟨rfl, rfl, rfl⟩
  layout := ⟨rfl, rfl⟩
  control := ⟨rfl, rfl⟩
  flags := ⟨rfl, rfl, rfl, rfl⟩
  error := ⟨rfl, rfl⟩
  pend := rfl
  irq := rfl
  reads := readValues_eq host t

/-- The run of the host's program from `s` ends within `fuel` steps, in a first state, and is observed there. -/
def RunIsObserved (host fuel : Nat) (s : State) : Prop :=
  ∃ n t o, n ≤ fuel ∧ core.run n s = .next t ∧ RunEnds host t ∧
    (∀ m u, m < n → core.run m s = .next u → ¬RunEnds host u) ∧ s.observeWithin host fuel = some o ∧ Observes host t o

theorem runIsObserved_of_runOver {host fuel : Nat} {s : State} (h : s.runOver host = true) : RunIsObserved host fuel s :=
  ⟨0, s, s.observation host, Nat.zero_le fuel, rfl, (runOver_iff host s).mp h, fun m _ hm => absurd hm (Nat.not_lt_zero m),
    observeWithin_of_runOver h fuel, observes_observation host s⟩

/-- One step before the end of a run is one more step of it. -/
theorem runIsObserved_of_step {host fuel : Nat} {s t : State} (hnot : s.runOver host = false) (ht : step s = .next t)
    (h : RunIsObserved host fuel t) : RunIsObserved host (fuel + 1) s := by
  obtain ⟨n, u, o, hn, hrun, hend, hfirst, hobs, ho⟩ := h
  refine ⟨n + 1, u, o, by omega, (run_succ_of_step (M := core) ht n).trans hrun, hend, fun m v hm hv => ?_,
    (observeWithin_of_step hnot ht fuel).trans hobs, ho⟩
  cases m with
  | zero =>
    cases hv
    rw [← runOver_iff, hnot]
    decide
  | succ m => exact hfirst m v (by omega) ((run_succ_of_step (M := core) ht m).symm.trans hv)

/-- By induction on the steps left: each takes one turn off the agenda, and the engine's turn after the last leaves it
idle. -/
theorem runIsObserved_of_inv (host : Nat) (fuel : Nat) (s : State) (hinv : s.Inv)
    (hfuel : s.agenda.length < fuel ∨ (s.agenda = [] ∧ s.busy = false)) : RunIsObserved host fuel s := by
  induction fuel generalizing s with
  | zero =>
    obtain ⟨hnil, hidle⟩ := hfuel.resolve_left (Nat.not_lt_zero _)
    exact runIsObserved_of_runOver (by simp [State.runOver, hnil, hidle])
  | succ fuel ih =>
    cases hover : s.runOver host with
    | true => exact runIsObserved_of_runOver hover
    | false =>
      obtain ⟨t, ht⟩ := step_next s
      have hagenda := step_agenda ht
      refine runIsObserved_of_step hover ht (ih t (everyStepKeepsTheInvariant s t hinv ht) ?_)
      cases hs : s.agenda with
      | nil =>
        have hturn : engineTurn s = .next t := by
          have hstep := step_eq_turn s
          rwa [nextTurn, hs, advance_of_nil hs, ht, eq_comm] at hstep
        exact .inr ⟨by rw [hagenda, hs]; rfl, engineTurn_idle hinv.held hturn⟩
      | cons x rest =>
        refine .inl ?_
        simp only [hs, reduceCtorEq, false_and, or_false, List.length_cons] at hfuel
        rw [hagenda, hs, List.tail_cons]
        omega

/-! ### What a run's observation does not depend on -/

/-- A read of another host changes the model's own fields only, and the record of answers not as the host sees it. -/
theorem turn_readOfAnother {host : Nat} {s t : State} {x : Turn} (hx : x.isReadOfAnother host = true) (ht : turn s x = .next t) :
    ∃ r d, t = s.withOwn s.agenda r d ∧ readsOf host r = readsOf host s.responses := by
  cases x with
  | read other off bytes =>
    have hne : other ≠ host := by simpa [Turn.isReadOfAnother] using hx
    have hanswer : ∃ b d, hostRead s other off bytes = s.withOwn s.agenda (⟨other, b⟩ :: s.responses) d := by
      unfold hostRead readWindow
      repeat' split
      all_goals exact ⟨_, _, rfl⟩
    obtain ⟨b, d, hread⟩ := hanswer
    cases ht
    exact ⟨_, d, hread, by rw [readsOf_cons, if_neg hne, List.append_nil]⟩
  | _ => exact absurd hx (by simp [Turn.isReadOfAnother])

/-- A step does the same whatever the model's own fields hold, if they do not change whose turn is next. -/
theorem step_withOwn {host : Nat} {s t : State} {a : List Turn} {r : List Answer} {d : Nat} (ht : step s = .next t)
    (hx : nextTurn (s.withOwn a r d) = nextTurn s) (hr : readsOf host r = readsOf host s.responses) :
    ∃ r' d', step (s.withOwn a r d) = .next (t.withOwn a.tail r' d') ∧ readsOf host r' = readsOf host t.responses := by
  rw [step_eq_turn] at ht
  rw [step_eq_turn, hx]
  exact turn_withOwn host s.advance t (nextTurn s) a.tail r d ht hr

section filter
variable {host : Nat} {keep : Turn → Bool} (hkeep : ∀ x, keep x = false → x.isReadOfAnother host = true)
include hkeep

/-- Dropping reads of other hosts does not change whether the host's run is over. -/
theorem runOver_filter (s : State) (r : List Answer) (d : Nat) :
    (s.withOwn (s.agenda.filter keep) r d).runOver host = s.runOver host := by
  have hsame : ∀ x : Turn, (keep x && x.isAccessOf host) = x.isAccessOf host := fun x => by
    cases hx : keep x with
    | true => rfl
    | false =>
      have := hkeep x hx
      cases x <;> simp_all [Turn.isReadOfAnother, Turn.isAccessOf]
  show (!s.busy && !(s.agenda.filter keep).any (Turn.isAccessOf host)) = _
  rw [List.any_filter, funext hsame, State.runOver]

theorem observeWithin_filter_of_runOver {s : State} {r : List Answer} (d : Nat) (hover : s.runOver host = true)
    (hr : readsOf host r = readsOf host s.responses) (m n : Nat) :
    (s.withOwn (s.agenda.filter keep) r d).observeWithin host m = s.observeWithin host n := by
  rw [observeWithin_of_runOver hover, observeWithin_of_runOver (by rw [runOver_filter hkeep, hover]),
    observation_withOwn host s _ r d hr]

theorem observeWithin_filter_zero {s : State} {r : List Answer} (d : Nat) (hr : readsOf host r = readsOf host s.responses) :
    (s.withOwn (s.agenda.filter keep) r d).observeWithin host 0 = s.observeWithin host 0 := by
  cases hover : s.runOver host with
  | true => exact observeWithin_filter_of_runOver hkeep d hover hr 0 0
  | false =>
    have hover' := (runOver_filter hkeep s r d).trans hover
    simp [State.observeWithin, hover, hover']

/-- A turn that is next in both runs leaves two runs that are observed alike, if what follows is. -/
theorem observeWithin_filter_succ {s : State} {l : List Turn} (hl : s.agenda = l) {r : List Answer} (d : Nat) {m n : Nat}
    (hx : nextTurn (s.withOwn (l.filter keep) r d) = nextTurn s) (hr : readsOf host r = readsOf host s.responses)
    (hrest : ∀ (t : State) r' d', t.agenda = l.tail → readsOf host r' = readsOf host t.responses →
      (t.withOwn (l.filter keep).tail r' d').observeWithin host m = t.observeWithin host n) :
    (s.withOwn (l.filter keep) r d).observeWithin host (m + 1) = s.observeWithin host (n + 1) := by
  subst hl
  cases hover : s.runOver host with
  | true => exact observeWithin_filter_of_runOver hkeep d hover hr _ _
  | false =>
    obtain ⟨t, ht⟩ := step_next s
    obtain ⟨r', d', ht', hr'⟩ := step_withOwn ht hx hr
    rw [observeWithin_of_step hover ht, observeWithin_of_step ((runOver_filter hkeep s r d).trans hover) ht']
    exact hrest t r' d' (step_agenda ht) hr'

/-- A dropped read leaves the run where it was. -/
theorem observeWithin_filter_drop {s : State} {x : Turn} {rest : List Turn} (hl : s.agenda = x :: rest) {r : List Answer}
    (d : Nat) {m n : Nat} (hx : keep x = false) (hr : readsOf host r = readsOf host s.responses)
    (hrest : ∀ t : State, t.agenda = rest → readsOf host r = readsOf host t.responses →
      (t.withOwn (rest.filter keep) r d).observeWithin host m = t.observeWithin host n) :
    (s.withOwn ((x :: rest).filter keep) r d).observeWithin host m = s.observeWithin host (n + 1) := by
  cases hover : s.runOver host with
  | true => exact hl ▸ observeWithin_filter_of_runOver hkeep d hover hr _ _
  | false =>
    have hadvance : s.advance = s.withOwn rest s.responses s.draws := by rw [State.advance, hl]; rfl
    obtain ⟨t, ht⟩ := step_next s
    have hturn := ht
    rw [step_eq_turn, nextTurn, hl, hadvance] at hturn
    obtain ⟨r', d', rfl, hr'⟩ := turn_readOfAnother (hkeep x hx) hturn
    rw [observeWithin_of_step hover ht, List.filter_cons_of_neg (by simp [hx])]
    exact hrest (s.withOwn rest r' d') rfl (hr.trans hr'.symm)

/-- By induction on the agenda: a dropped read leaves the run where it was, and a turn that is kept does the same in both
runs. -/
theorem observeWithin_filter {l : List Turn} {s : State} (hl : s.agenda = l) {r : List Answer} (d : Nat)
    (hr : readsOf host r = readsOf host s.responses) :
    (s.withOwn (l.filter keep) r d).observeWithin host ((l.filter keep).length + 1) =
      s.observeWithin host (l.length + 1) := by
  induction l generalizing s r d with
  | nil =>
    refine observeWithin_filter_succ hkeep hl d (by rw [nextTurn, nextTurn, hl]; rfl) hr fun t r' d' ht hr' => ?_
    have hzero := observeWithin_filter_zero hkeep d' hr'
    rwa [ht] at hzero
  | cons x rest ih =>
    cases hx : keep x with
    | true =>
      have hcons : (x :: rest).filter keep = x :: rest.filter keep := List.filter_cons_of_pos hx
      refine observeWithin_filter_succ hkeep hl d (by rw [nextTurn, nextTurn, hl, hcons]; rfl) hr fun t r' d' ht hr' => ?_
      rw [hcons]
      exact ih ht d' hr'
    | false =>
      refine observeWithin_filter_drop hkeep hl d hx hr fun t ht hr' => ?_
      rw [List.filter_cons_of_neg (by simp [hx])]
      exact ih ht d hr'

end filter

/-- Settles O60: from a state that meets the invariant the run ends and is observed there; the reads of other hosts, and so the
free values that were drawn, do not change what is observed. -/
theorem runsEndInTheirObservation : Obligations.RunsEndInTheirObservation := by
  intro s host
  refine ⟨fun hinv => ?_, fun d => ?_, ?_⟩
  · exact runIsObserved_of_inv host (s.agenda.length + 1) { s with responses := [] }
      (hinv.withOwn s.agenda [] s.draws) (.inl (Nat.lt_succ_self _))
  · have h := observeWithin_filter (host := host) (keep := fun _ => true) (fun _ hx => nomatch hx)
      (s := { s with responses := [] }) (l := s.agenda) rfl (r := []) d rfl
    rwa [List.filter_true] at h
  · exact observeWithin_filter (host := host) (keep := fun t => !t.isReadOfAnother host) (fun x hx => by simpa using hx)
      (s := { s with responses := [] }) (l := s.agenda) rfl (r := []) s.draws rfl

end Sys2Proof.Machine

/-! ## The round material (20_memory.md R68) -/

namespace Sys2Proof.Machine

/-- `SCHED` and `CLEAR` alone change the material or its tag. -/
theorem EffectKind.scheduled_of_material {s u : State} {i : Instr} (hu : EffectKind i s u)
    (hmat : ¬(u.mkey = s.mkey ∧ u.mprim = s.mprim ∧ u.mvalid = s.mvalid)) :
    i = .clear ∨ ∃ p, scheduled i = some p ∧ u.mprim = p.code ∧ u.mvalid = true := by
  cases hu with
  | clear hi => exact .inl hi
  | sched p hp => exact .inr ⟨p, hp, rfl, rfl⟩
  | _ => exact absurd ⟨rfl, rfl, rfl⟩ hmat

/-- Settles O17: beside a reset, `CLEAR` and `SCHED` every effect of a turn keeps the material and its tag. -/
theorem materialChangesOnlyBySchedClearReset : Obligations.MaterialChangesOnlyBySchedClearReset := by
  intro s t h hmat
  cases step_effect h with
  | wrote host off v r u hx hr hu =>
    obtain ⟨-, hkey, hprim, hvalid, -⟩ := hu.frame
    exact absurd ⟨hkey, hprim, hvalid⟩ hmat
  | completed c i u hx hr hc hd hmet hu => exact .inr ⟨i, ⟨hx, hr, c, hc, hd⟩, hu.scheduled_of_material hmat⟩
  | reset level hx => exact .inl hx
  | _ => exact absurd ⟨rfl, rfl, rfl⟩ hmat

end Sys2Proof.Machine

/-! ## Accesses that change nothing, and the byte windows (20_memory.md R51, R53, R55, R56, R63) -/

namespace Sys2Proof.Machine

theorem legalAccess_eq_false {off : BitVec 9} {bytes : Nat} (h : bytes ≠ 4 ∨ off.toNat % 4 ≠ 0) :
    legalAccess off bytes = false := by
  rw [legalAccess, Bool.and_eq_false_iff]
  exact h.imp (beq_eq_false_iff_ne.mpr ·) (beq_eq_false_iff_ne.mpr ·)

/-- Settles O33: an access that is not legal is answered, and that is all. -/
theorem illegalAccessesChangeNothing : Obligations.IllegalAccessesChangeNothing := by
  intro s host off bytes v hr h
  have hillegal := legalAccess_eq_false h
  refine ⟨?_, ?_⟩
  · simp [turn, hostRead, hr, hillegal, State.respond]
  · simp [turn, hostWrite, hr, hillegal, State.respond]

theorem unspecifiedWhileBusy_regionOf {off : Nat} (h : (0x100 ≤ off ∧ off < 0x140) ∨ (0x180 ≤ off ∧ off < 0x1C0)) :
    (regionOf off).unspecifiedWhileBusy = true := by
  rcases h with ⟨hlo, hhi⟩ | ⟨hlo, hhi⟩
  · rw [regionOf_data hlo hhi]
    rfl
  · rw [regionOf_above (by omega), if_neg (by omega), if_neg (by omega), if_neg (by omega), if_neg (by omega), if_pos hhi]
    rfl

/-- Settles O25: both ranges are of regions whose reads draw a free value while `BUSY` = 1. -/
theorem busyReadsAnswerFreeValues : Obligations.BusyReadsAnswerFreeValues := by
  intro s host off hr hb hoff hrange
  obtain ⟨hnat, hlegal⟩ := legalAccess_ofNat (off := off) (by omega) hoff
  have hfree := unspecifiedWhileBusy_regionOf hrange
  simp [turn, hostRead, readWindow, hr, hlegal, hnat, hb, hfree, State.respond]

/-- A write to a region that takes none changes nothing. -/
theorem writeMakes_ignored {s : State} {off : Nat} (v : Word) (hr : s.inReset = false) (hlt : off < 0x200)
    (hoff : off % 4 = 0) (hg : writeRegion s v (regionOf off) = s) : WriteMakes s off v s := by
  have hw := writeMakes_of_legal v hr hlt hoff
  rwa [hg] at hw

/-- Settles O26: the regions of these offsets take no write, and reserved offsets read as O24 says. -/
theorem reservedAndReadOnlyOffsetsIgnoreWrites : Obligations.ReservedAndReadOnlyOffsetsIgnoreWrites := by
  intro s off v hr
  obtain ⟨-, -, -, -, -, -, hreads, -⟩ := readsReturnTheAddressMapValue s hr
  refine ⟨fun hres => ⟨hreads off hres, ?_⟩, ?_⟩
  · obtain ⟨h4, hrange⟩ := id hres
    exact writeMakes_ignored v hr (by omega) h4 (by rw [regionOf_reserved hres]; rfl)
  · rintro (hreg | ⟨h4, hlo, hhi⟩)
    · simp only [List.mem_cons, List.not_mem_nil, or_false] at hreg
      rcases hreg with rfl | rfl | rfl <;> exact writeMakes_ignored v hr (by decide) (by decide) rfl
    · obtain ⟨k, rfl⟩ : ∃ k, off = 0x180 + 4 * k := ⟨(off - 0x180) / 4, by omega⟩
      exact writeMakes_ignored v hr (by omega) h4 (by rw [regionOf_state (by omega)]; rfl)

/-! ### Words of the byte windows -/

theorem readsAs_dataWord {s : State} {j : Nat} (hr : s.inReset = false) (hb : s.busy = false) (hj : j < 16) :
    ReadsAs s (0x100 + 4 * j) (s.mem.readWord (0x100 + 4 * j)) := by
  obtain ⟨-, -, -, -, -, -, -, -, hidle⟩ := readsReturnTheAddressMapValue s hr
  exact (hidle hb).1 j hj

theorem readsAs_keyWord {s : State} {j : Nat} (hr : s.inReset = false) (hj : j < 12) :
    ReadsAs s (0x140 + 4 * j) 0#32 := by
  obtain ⟨-, -, -, -, -, -, -, hkey, -⟩ := readsReturnTheAddressMapValue s hr
  exact hkey j hj

theorem read_writeWord_inside {m : Memory} (a : Nat) (v : Word) {t : Nat} (hwf : m.wf = true) (ht : t < 4) :
    (m.writeWord a v).read (a + t) = byteOf v t := by
  rw [Memory.writeWord, Memory.read_writeBytes_inside (putLE32 v) hwf ht]
  match t with
  | 0 | 1 | 2 | 3 => rfl

theorem read_writeWord_outside {m : Memory} {a b : Nat} (v : Word) (h : b < a ∨ a + 4 ≤ b) :
    (m.writeWord a v).read b = m.read b := Memory.read_writeBytes_outside (putLE32 v) h

theorem readWord_writeWord {m : Memory} (a : Nat) (v : Word) (hwf : m.wf = true) : (m.writeWord a v).readWord a = v := by
  have hbyte : ∀ t, t < 4 → (m.writeWord a v).read (a + t) = byteOf v t := fun t => read_writeWord_inside a v hwf
  rw [Memory.readWord, hbyte 1 (by decide), hbyte 2 (by decide), hbyte 3 (by decide)]
  exact (congrArg (le32 · _ _ _) (hbyte 0 (by decide))).trans (le32_byteOf v)

/-- While idle a write of a word of `DATA` or `KEY` stores it. -/
theorem writeMakes_buffer {s : State} {off : Nat} (v : Word) (hr : s.inReset = false) (hb : s.busy = false)
    (hlo : 0x100 ≤ off) (hhi : off < 0x170) (hoff : off % 4 = 0) :
    WriteMakes s off v { s with mem := s.mem.writeWord off v } := by
  have hstore : writeRegion s v (regionOf off) = { s with mem := s.mem.writeWord off v } := by
    rcases Nat.lt_or_ge off 0x140 with hdata | hkey
    · simp [regionOf_data hlo hdata, writeRegion, writeBuffer, hb]
    · simp [regionOf_key hkey hhi, writeRegion, writeBuffer, hb]
  exact hstore ▸ writeMakes_of_legal v hr (by omega) hoff

/-- What a write of a word of `DATA` or `KEY` stores. -/
theorem buffer_write {s : State} {off : Nat} (v : Word) (hr : s.inReset = false) (hb : s.busy = false)
    (hwf : s.mem.wf = true) (hlo : 0x100 ≤ off) (hhi : off < 0x170) (hoff : off % 4 = 0) :
    WriteMakes s off v { s with mem := s.mem.writeWord off v } ∧
      (∀ t, t < 4 → (s.mem.writeWord off v).read (off + t) = v.extractLsb' (8 * t) 8) ∧
      ∀ a, (a < off ∨ off + 4 ≤ a) → (s.mem.writeWord off v).read a = s.mem.read a :=
  ⟨writeMakes_buffer v hr hb hlo hhi hoff, fun _ => read_writeWord_inside off v hwf, fun _ => read_writeWord_outside v⟩

/-- Settles O27: both windows store what is written as four bytes, and read as O24 says. -/
theorem bufferWordsAreLittleEndian : Obligations.BufferWordsAreLittleEndian := by
  intro s j v hr hb hwf
  refine ⟨readsAs_dataWord hr hb, fun hj => ?_, fun hj => ?_⟩
  · obtain ⟨hwrite, hin, hout⟩ := buffer_write (off := 0x100 + 4 * j) v hr hb hwf (by omega) (by omega) (by omega)
    refine ⟨s.mem.writeWord (0x100 + 4 * j) v, hwrite, hin, fun a ha => hout a (by omega), ?_⟩
    have hread := readsAs_dataWord (s := { s with mem := s.mem.writeWord (0x100 + 4 * j) v }) hr hb hj
    rwa [readWord_writeWord _ v hwf] at hread
  · obtain ⟨hwrite, hin, hout⟩ := buffer_write (off := 0x140 + 4 * j) v hr hb hwf (by omega) (by omega) (by omega)
    exact ⟨s.mem.writeWord (0x140 + 4 * j) v, hwrite, hin, fun a ha => hout a (by omega), readsAs_keyWord hr hj⟩

end Sys2Proof.Machine

/-! ## The two readings of the checks (60_exceptions.md R341) -/

namespace Sys2Proof.Machine

/-- The code of the first check that holds. -/
def firstCode (checks : List (Bool × ErrorCode)) : Option ErrorCode := (checks.find? (fun check => check.1)).map (·.2)

@[simp] theorem firstCode_nil : firstCode [] = none := rfl

@[simp] theorem firstCode_cons (b : Bool) (e : ErrorCode) (rest : List (Bool × ErrorCode)) :
    firstCode ((b, e) :: rest) = if b then some e else firstCode rest := by
  cases b <;> simp [firstCode]

theorem fieldOf_eq_toNat (c : Word) (lo width : Nat) : fieldOf c lo width = (c.extractLsb' lo width).toNat := by
  rw [fieldOf, BitVec.extractLsb'_toNat, Nat.shiftRight_eq_div_pow]

/-! ### Check by check -/

theorem primAbsent_iff (s : State) (p : Nibble) :
    primAbsent s.primPresent p = true ↔ 8 ≤ p.toNat ∨ s.cap.getLsbD p.toNat = false := by
  have hcap : s.cap.getLsbD p.toNat = s.primPresent.getLsbD p.toNat := by
    have hlt : p.toNat < 32 := by omega
    simp [State.cap, hlt]
  simp [primAbsent, hcap]

theorem any_keyed_ofCode (p : Nibble) : (Prim.ofCode p).any Prim.keyed = decide (p.toNat ∈ [0, 1, 5]) := by
  revert p; decide

theorem usesStart_ofCode (op : Nat) (p : Nibble) :
    usesStart op (Prim.ofCode p) = decide (op = 5 ∧ p.toNat ∈ [0, 1, 2, 4, 6, 7]) := by
  by_cases hop : op = 5
  · subst hop
    revert p; decide
  · simp [usesStart, opRounds, hop]

theorem usesVar_ofCode (op : Nat) (p : Nibble) : usesVar op (Prim.ofCode p) = decide (op = 5 ∧ p.toNat ∈ [3, 4]) := by
  by_cases hop : op = 5
  · subst hop
    revert p; decide
  · simp [usesVar, opRounds, hop]

theorem unusedFieldSet_iff (c : Word) :
    unusedFieldSet c = true ↔
      ((startField c).toNat ≠ 0 ∧ ¬((opField c).toNat = 5 ∧ (primField c).toNat ∈ [0, 1, 2, 4, 6, 7])) ∨
        ((countField c).toNat ≠ 0 ∧ (opField c).toNat ≠ 5) ∨
        ((varField c).toNat ≠ 0 ∧ ¬((opField c).toNat = 5 ∧ (primField c).toNat ∈ [3, 4])) := by
  simp only [unusedFieldSet, usesStart_ofCode, usesVar_ofCode, usesCount, opRounds, Bool.or_eq_true, Bool.and_eq_true,
    Bool.not_eq_true', decide_eq_false_iff_not, bne_iff_ne, beq_eq_false_iff_ne, BitVec.toNat_ne, BitVec.toNat_zero,
    or_assoc, and_comm (a := _ ≠ 0)]

theorem varIllegal_iff (c : Word) :
    varIllegal c = true ↔
      ((primField c).toNat = 4 ∧ 2 < (varField c).toNat) ∨ ((primField c).toNat = 3 ∧ 3 < (varField c).toNat) := by
  unfold varIllegal
  generalize primField c = p
  generalize varField c = v
  revert p v
  decide

/-- A primitive code is reserved, or it is that of a primitive. -/
theorem ofCode_reserved_or_code (p : Nibble) :
    (Prim.ofCode p = none ∧ 8 ≤ p.toNat) ∨ ∃ q : Prim, Prim.ofCode p = some q ∧ p.toNat = q.code.toNat := by
  cases h : Prim.ofCode p with
  | none => exact .inl ⟨rfl, by revert h; revert p; decide⟩
  | some q => exact .inr ⟨q, rfl, by rw [Prim.code_of_ofCode h]⟩

theorem grainWidthOf_eq (v : Nibble) : grainWidthOf v = if v.toNat % 2 = 0 then .w32 else .w16 := by
  revert v; decide

theorem outOfRange_iff (c : Word) :
    outOfRange c = true ↔
      ((primField c).toNat ∈ [0, 1] ∧ 40 < (startField c).toNat + (countField c).toNat) ∨
        ((primField c).toNat ∈ [2, 6, 7] ∧ 12 < (startField c).toNat + (countField c).toNat) ∨
        ((primField c).toNat = 3 ∧ (if (varField c).toNat % 2 = 0 then 8 else 16) < (countField c).toNat) := by
  unfold outOfRange
  rw [grainWidthOf_eq]
  rcases ofCode_reserved_or_code (primField c) with ⟨hcode, hnat⟩ | ⟨q, hcode, hnat⟩
  · simp only [hcode, List.mem_cons, List.not_mem_nil, or_false, Bool.false_eq_true, false_iff]
    omega
  · rw [hcode, hnat]
    cases q
    case grain => by_cases heven : (varField c).toNat % 2 = 0 <;> simp [Prim.code, heven]
    all_goals simp [Prim.code]

theorem tag_iff (valid : Bool) (tag p : Nibble) :
    (!(valid && tag == p)) = true ↔ ¬(valid = true ∧ tag.toNat = p.toNat) := by
  rw [BitVec.toNat_inj, Bool.not_eq_true', ← Bool.not_eq_true, Bool.and_eq_true, beq_iff_eq]

/-! ### All checks -/

theorem checksOf_eq_orderedChecks (s : State) (c : Word) :
    checksOf s c = orderedChecks s (opField c).toNat (primField c).toNat (startField c).toNat (countField c).toNat
      (varField c).toNat (rsvField c).toNat := by
  simp only [checksOf, fieldOf_eq_toNat]
  rfl

/-- Checks 1 to 8 on numbers are the decoder's. Its checks 3 and 5 take more values of `OP`, which check 1 shuts out. -/
theorem firstCode_take_checksOf (s : State) (c : Word) :
    firstCode ((checksOf s c).take 8) = encodingCheck s.primPresent c := by
  rw [checksOf_eq_orderedChecks]
  simp only [orderedChecks, encodingCheck, List.take_succ_cons, List.take_zero, firstCode_cons, firstCode_nil,
    decide_eq_true_eq]
  by_cases hop : 6 ≤ (opField c).toNat
  · rw [if_pos hop, if_pos hop]
  · rw [if_neg hop, if_neg hop]
    refine if_congr ?rsv rfl (if_congr ?prim rfl (if_congr ?combo rfl (if_congr ?named rfl
      (if_congr (unusedFieldSet_iff c).symm rfl (if_congr ?var rfl (if_congr ?range rfl rfl))))))
    case rsv => rw [bne_iff_ne, BitVec.toNat_ne, BitVec.toNat_zero]
    case prim =>
      rw [Bool.and_eq_true, primAbsent_iff, decide_eq_true_eq]
      refine and_congr_left fun _ => ?_
      simp only [List.mem_cons, List.not_mem_nil, or_false]
      omega
    case combo => simp [any_keyed_ofCode, opSched]
    case named =>
      rw [Bool.and_eq_true, bne_iff_ne, BitVec.toNat_ne, BitVec.toNat_zero, decide_eq_true_eq]
      refine and_congr_left fun _ => ?_
      simp only [List.mem_cons, List.not_mem_nil, or_false]
      omega
    case var => rw [Bool.and_eq_true, beq_iff_eq, varIllegal_iff, opRounds]
    case range => rw [Bool.and_eq_true, beq_iff_eq, outOfRange_iff, opRounds]

/-- Checks 9 and 10 on numbers are those on the tags. -/
theorem firstCode_drop_checksOf (s : State) (c : Word) : firstCode ((checksOf s c).drop 8) = tagCheck s c := by
  rw [checksOf_eq_orderedChecks]
  simp only [orderedChecks, tagCheck, List.drop_succ_cons, List.drop_zero, firstCode_cons, firstCode_nil, decide_eq_true_eq]
  refine if_congr ?_ rfl (if_congr ?_ rfl rfl)
  · rw [Bool.and_eq_true, tag_iff]
    simp [opToext, opRounds]
  · rw [Bool.and_eq_true, Bool.and_eq_true, tag_iff, any_keyed_ofCode]
    simp [opRounds, and_assoc]

theorem firstCode_append (l l' : List (Bool × ErrorCode)) : firstCode (l ++ l') = (firstCode l).or (firstCode l') := by
  rw [firstCode, List.find?_append, Option.map_or, firstCode, firstCode]

/-- The ten checks on numbers are the machine's. -/
theorem firstCode_checksOf (s : State) (c : Word) : firstCode (checksOf s c) = issueCheck s c := by
  rw [← List.take_append_drop 8 (checksOf s c), firstCode_append, firstCode_take_checksOf, firstCode_drop_checksOf, issueCheck]
  cases encodingCheck s.primPresent c <;> rfl

/-- A word that no check on numbers rejects is one that the machine accepts. -/
theorem issueCheck_eq_none_iff (s : State) (c : Word) :
    issueCheck s c = none ↔ (checksOf s c).find? (fun check => check.1) = none := by
  rw [← firstCode_checksOf, firstCode, Option.map_eq_none_iff]

end Sys2Proof.Machine

/-! ## An accepted command completes (60_exceptions.md R344, R351) -/

namespace Sys2Proof.Machine

/-! ### What an accepted word says of its command -/

theorem issueCheck_eq_none_iff_encoding_tag {s : State} {c : Word} :
    issueCheck s c = none ↔ encodingCheck s.primPresent c = none ∧ tagCheck s c = none := by
  unfold issueCheck
  cases encodingCheck s.primPresent c <;> simp

theorem rowOf_encode (i : Instr) : rowOf (encode i) = some i := by
  cases i <;> simp [rowOf, encode, plainWord]

theorem decode_encode_of_encodingCheck {cap : Byte} {i : Instr} (h : encodingCheck cap (encode i) = none) :
    decode cap (encode i) = .ok i := decode_ok_iff.mpr ⟨h, rowOf_encode i⟩

/-- A word that passes the encoding checks names no absent primitive, and its range is right. -/
theorem present_and_inRange_of_encodingCheck {cap : Byte} {c : Word} (h : encodingCheck cap c = none) :
    (2 ≤ (opField c).toNat → primAbsent cap (primField c) = false) ∧ ((opField c).toNat = 5 → outOfRange c = false) := by
  simp only [encodingCheck, opRounds, ite_eq_iff, reduceCtorEq, and_false, false_or, and_true, Bool.and_eq_true,
    decide_eq_true_eq, beq_iff_eq, not_and, Bool.not_eq_true] at h
  obtain ⟨-, -, hprim, -, -, -, -, hrange⟩ := h
  exact ⟨hprim, hrange⟩

/-- The word of a command that names a primitive holds its code. -/
theorem fields_encode_of_prim? {i : Instr} {p : Prim} (h : i.prim? = some p) :
    2 ≤ (opField (encode i)).toNat ∧ primField (encode i) = p.code := by
  cases i <;> simp_all [Instr.prim?, encode, plainWord]

theorem rangeNeeds_of_outOfRange {i : Instr} (h : (opField (encode i)).toNat = 5 → outOfRange (encode i) = false) :
    ∀ n ∈ rangeNeeds i, n.1 = true := by
  cases i
  case roundsGrain count width mode => cases width <;> simp_all [rangeNeeds, grainLimit, encode, outOfRange]
  all_goals simp_all [rangeNeeds, needRounds, encode, outOfRange]

theorem tagNeeds_of_tagCheck {s : State} {i : Instr} (h : tagCheck s (encode i) = none) :
    (∀ p, layoutNeeded i = some p → s.layoutIs p = true) ∧ ∀ p, materialNeeded i = some p → s.materialIs p = true := by
  simp only [tagCheck_encode, ite_eq_iff, reduceCtorEq, and_false, false_or, and_true, Bool.not_eq_true] at h
  obtain ⟨hlay, hmat⟩ := h
  exact ⟨fun p hp => by simpa [hp] using hlay, fun p hp => by simpa [hp] using hmat⟩

/-- The requirements of a command are among the checks of its word, so one that is accepted meets them. -/
theorem firstFailing_needsOf_of_issueCheck {s : State} {i : Instr} (h : issueCheck s (encode i) = none) :
    firstFailing (needsOf i s) = none := by
  obtain ⟨henc, htag⟩ := issueCheck_eq_none_iff_encoding_tag.mp h
  obtain ⟨hprim, hrange⟩ := present_and_inRange_of_encodingCheck henc
  obtain ⟨hlay, hmat⟩ := tagNeeds_of_tagCheck htag
  refine firstFailing_none fun n hn => ?_
  simp only [needsOf, List.mem_append, List.mem_map, Option.mem_toList] at hn
  rcases hn with ((⟨p, hp, rfl⟩ | hn) | ⟨p, hp, rfl⟩) | ⟨p, hp, rfl⟩
  · obtain ⟨hop, hcode⟩ := fields_encode_of_prim? hp
    have habsent := hprim hop
    rw [hcode] at habsent
    simp_all [primAbsent, needPresent, State.present]
  · exact rangeNeeds_of_outOfRange hrange n hn
  · exact hlay p hp
  · exact hmat p hp

/-- A command that is accepted has its effect and completes. -/
theorem exec_completes_of_issueCheck {s : State} {i : Instr} (h : issueCheck s (encode i) = none) :
    exec i s = .next (effectOf i s).finish := by
  rw [exec_eq_runCommand]
  exact runCommand_completes (firstFailing_needsOf_of_issueCheck h)

theorem engineTurn_of_pend {s : State} {c : Word} {i : Instr} (hr : s.inReset = false) (hc : s.pend = some c)
    (hd : decode s.primPresent c = .ok i) : engineTurn s = exec i s := by
  simp [engineTurn, hr, hc, hd]

/-- The engine's turn completes an accepted command in flight. -/
theorem engineTurn_completes {s : State} {i : Instr} (hr : s.inReset = false) (hc : s.pend = some (encode i))
    (h : issueCheck s (encode i) = none) : engineTurn s = .next (effectOf i s).finish := by
  obtain ⟨henc, -⟩ := issueCheck_eq_none_iff_encoding_tag.mp h
  rw [engineTurn_of_pend hr hc (decode_encode_of_encodingCheck henc), exec_completes_of_issueCheck h]

/-! ### What a command reads and a host cannot change while it is in flight -/

/-- `s` with all that no command reads, or that a host can change while a command is in flight, at its reset value. -/
def State.inputs (s : State) : State :=
  { s with
    ieDone := false
    ieErr := false
    done := false
    err := false
    ovr := false
    pend := none
    agenda := []
    responses := []
    draws := 0 }

/-- The result of a command is a function of its inputs (20_memory.md R61). -/
theorem effectOf_inputs (i : Instr) (s : State) : (effectOf i s).inputs = effectOf i s.inputs := by
  cases i <;> rfl

theorem fields_of_inputs_eq {s t : State} (h : s.inputs = t.inputs) :
    s.w = t.w ∧ s.mem = t.mem ∧ s.mkey = t.mkey ∧ s.mprim = t.mprim ∧ s.mvalid = t.mvalid ∧ s.lprim = t.lprim ∧
      s.lvalid = t.lvalid ∧ s.ecode = t.ecode ∧ s.ecmd = t.ecmd ∧ s.primPresent = t.primPresent ∧ s.inReset = t.inReset := by
  simpa [State.inputs] using h

/-- While a command is in flight a host's turn changes none of its inputs, and leaves it in flight. -/
theorem turn_inputs_of_isHost {s t : State} {x : Turn} (hx : x.isHost = true) (hb : s.busy = true)
    (ht : turn s x = .next t) : t.inputs = s.inputs ∧ t.pend = s.pend := by
  cases x with
  | read host off bytes =>
    cases ht
    obtain ⟨r, d, hread⟩ := hostRead_frame s host off bytes
    rw [hread]
    exact ⟨rfl, rfl⟩
  | write host off bytes v =>
    cases ht
    obtain ⟨u, r, hwrite, hu⟩ := hostWrite_cases s host off bytes v
    rw [hwrite]
    rcases hu with rfl | ⟨-, -, -, ⟨-, rfl⟩ | ⟨-, rfl⟩ | ⟨-, rfl⟩ |
      ⟨-, hidle, -⟩ | ⟨-, hidle, -⟩ | ⟨hidle, -⟩⟩
    iterate 4 exact ⟨rfl, rfl⟩
    all_goals exact absurd (hidle.symm.trans hb) (by decide)
  | _ => exact absurd hx (by decide)

theorem run_add_of_run {M : Host.Core} {s t : M.State} {m : Nat} (h : M.run m s = .next t) (n : Nat) :
    M.run (m + n) s = M.run n t := by
  induction m generalizing s with
  | zero =>
    cases h
    rw [Nat.zero_add]
  | succ m ih =>
    rw [Nat.succ_add]
    cases hs : M.step s with
    | next u =>
      rw [run_succ_of_step hs] at h ⊢
      exact ih h
    | fault r => simp [Host.Core.run, hs] at h
    | refused r => simp [Host.Core.run, hs] at h

/-- Any turns of hosts, one after the other, leave the command in flight and its inputs as they are. -/
theorem run_hostTurns {between rest : List Turn} (hhost : ∀ x ∈ between, Turn.isHost x = true) {s : State}
    (hb : s.busy = true) (hs : s.agenda = between ++ rest) :
    ∃ t : State, core.run between.length s = .next t ∧ t.inputs = s.inputs ∧ t.pend = s.pend ∧ t.agenda = rest := by
  induction between generalizing s with
  | nil => exact ⟨s, rfl, rfl, rfl, hs⟩
  | cons x xs ih =>
    obtain ⟨u, hu⟩ := step_next s
    have hturn : turn s.advance x = .next u := by
      have hstep := step_eq_turn s
      rwa [nextTurn, hs, List.cons_append, hu, eq_comm] at hstep
    obtain ⟨hin, hpend⟩ := turn_inputs_of_isHost (s := s.advance) (hhost x List.mem_cons_self) hb hturn
    have hagenda : u.agenda = xs ++ rest := by rw [step_agenda hu, hs, List.cons_append, List.tail_cons]
    have hbusy : u.busy = true := by rw [State.busy, hpend]; exact hb
    obtain ⟨t, hrun, htin, htpend, htagenda⟩ := ih (fun y hy => hhost y (List.mem_cons_of_mem x hy)) hbusy hagenda
    exact ⟨t, (run_succ_of_step (M := core) hu xs.length).trans hrun, htin.trans hin, htpend.trans hpend, htagenda⟩

/-- Settles O13: the issue and the hosts' turns keep the inputs of the command, and the completion is a function of them. -/
theorem hostCannotDisturbACommandInFlight : Obligations.HostCannotDisturbACommandInFlight := by
  intro s i host between rest hr hb hcheck hs hhost
  have hnone := (issueCheck_eq_none_iff s (encode i)).mpr hcheck
  have hissue : step s = .next ((s.advance.accept (encode i)).respond ⟨host, .writeDone⟩) := by
    rw [step_eq_turn, nextTurn, hs]
    exact writeMakes_cmd_accepted (s := s.advance) hr hb hnone host
  obtain ⟨t, hrun, hin, hpend, hagenda⟩ := run_hostTurns (s := (s.advance.accept (encode i)).respond ⟨host, .writeDone⟩)
    hhost rfl (rest := .engine :: rest) (by simp [State.advance, hs])
  have hsame : t.advance.inputs = s.inputs := hin
  obtain ⟨-, -, -, hmprim, hmvalid, hlprim, hlvalid, -, -, hpresent, hreset⟩ := fields_of_inputs_eq hsame
  have hdone : step t = .next (effectOf i t.advance).finish := by
    rw [step_eq_turn, nextTurn, hagenda]
    exact engineTurn_completes (hreset.trans hr) hpend
      ((issueCheck_congr _ hpresent hlvalid hlprim hmvalid hmprim).trans hnone)
  have hresult : (effectOf i t.advance).inputs = (effectOf i s).inputs := by
    rw [effectOf_inputs, effectOf_inputs, hsame]
  obtain ⟨hw, hmem, hmkey, hmprim, hmvalid, hlprim, hlvalid, hecode, hecmd, -⟩ := fields_of_inputs_eq hresult
  refine ⟨(effectOf i t.advance).finish, (effectOf i s).finish, ?_, exec_completes_of_issueCheck hnone, hw, hmem, hmkey,
    hmprim, hmvalid, hlprim, hlvalid, hecode, hecmd, rfl, rfl, ?_⟩
  · rw [run_succ_of_step (M := core) hissue, run_add_of_run hrun 1]
    exact run_succ_of_step (M := core) hdone 0
  · rw [step_agenda hdone, hagenda, List.tail_cons]

end Sys2Proof.Machine

/-! ## Encoding: the word of a command and the command of a word (30_encoding.md R90 to R93) -/

namespace Sys2Proof.Machine

/-- Settles O1: the word of a well-formed command of the build passes every check, and its row is the command's. -/
theorem decodeOfEncodeIsTheCommand : Obligations.DecodeOfEncodeIsTheCommand := fun _ _ hwf hcap =>
  decode_encode_of_encodingCheck (encodingCheck_encode hwf hcap)

/-! ### The checks before the range -/

/-- What checks 1 to 7 of 60_exceptions.md R341 ask of a word: all but the range. -/
structure PassesUpToRange (cap : Byte) (c : Word) : Prop where
  op : (opField c).toNat < 6
  rsv : rsvField c = 0#4
  present : 2 ≤ (opField c).toNat → primAbsent cap (primField c) = false
  keyed : (opField c).toNat = 4 → (Prim.ofCode (primField c)).any Prim.keyed = true
  unnamed : (opField c).toNat < 2 → primField c = 0#4
  unused : unusedFieldSet c = false
  var : (opField c).toNat = 5 → varIllegal c = false

/-- A word that passes every check passes the first seven, and its range is right. -/
theorem passesUpToRange_of_encodingCheck {cap : Byte} {c : Word} (h : encodingCheck cap c = none) :
    PassesUpToRange cap c ∧ ((opField c).toNat = 5 → outOfRange c = false) := by
  simp only [encodingCheck, opRounds, opSched, ite_eq_iff, reduceCtorEq, and_false, false_or, and_true, Bool.and_eq_true,
    decide_eq_true_eq, beq_iff_eq, bne_iff_ne, ne_eq, not_and, not_not, Bool.not_eq_true, Bool.not_eq_eq_eq_not, Bool.not_true,
    Bool.not_eq_false, not_le] at h
  obtain ⟨hop, hrsv, hpresent, hkeyed, hunnamed, hunused, hvar, hrange⟩ := h
  exact ⟨⟨hop, hrsv, hpresent, hkeyed, hunnamed, hunused, hvar⟩, hrange⟩

/-- Past the first seven checks only the range of a `ROUNDS` word is left to check. -/
theorem PassesUpToRange.encodingCheck_eq {cap : Byte} {c : Word} (h : PassesUpToRange cap c) :
    encodingCheck cap c = if (opField c).toNat = 5 ∧ outOfRange c = true then some .eRange else none := by
  obtain ⟨hop, hrsv, hpresent, hkeyed, hunnamed, hunused, hvar⟩ := h
  simp only [encodingCheck]
  rw [if_neg (Nat.not_le.mpr hop), if_neg (by simp [hrsv]), if_neg (by simpa using hpresent),
    if_neg (by simpa [opSched] using hkeyed), if_neg (by simpa [Nat.lt_succ_iff] using hunnamed), if_neg (by simp [hunused]),
    if_neg (by simpa [opRounds] using hvar)]
  simp [opRounds]

/-- The build check of a command is that of its word (60_exceptions.md R342). -/
theorem builtIn_iff {cap : Byte} {i : Instr} :
    i.builtIn cap = true ↔ (2 ≤ (opField (encode i)).toNat → primAbsent cap (primField (encode i)) = false) := by
  cases i <;> simp [Instr.builtIn, Instr.prim?, encode, plainWord, primAbsent, Prim.code]

/-- A command is well formed when the range check of its word is passed (30_encoding.md R86). -/
theorem wellFormed_iff {i : Instr} :
    i.wellFormed = true ↔ ((opField (encode i)).toNat = 5 → outOfRange (encode i) = false) := by
  cases i
  case roundsGrain count width mode => cases width <;> simp [Instr.wellFormed, encode, outOfRange]
  all_goals simp [Instr.wellFormed, encode, plainWord, outOfRange, roundsWithin]

/-- An encoded command sets no field that it does not use (30_encoding.md R84). -/
theorem unusedFieldSet_encode (i : Instr) : unusedFieldSet (encode i) = false := by
  cases i <;> simp [unusedFieldSet, encode, plainWord, usesStart, usesCount, usesVar, opRounds]

/-- The `VAR` of an encoded command is a legal one (30_encoding.md R85). -/
theorem varIllegal_encode (i : Instr) : varIllegal (encode i) = false := by
  cases i
  case nop | clear => rfl
  case roundsGrain count width mode => cases width <;> cases mode <;> simp [varIllegal, encode, grainVar]
  case roundsSparkle start count b => cases b <;> simp [varIllegal, encode, Branches.var]
  all_goals simp [varIllegal, encode, plainWord]

/-- The word of a command of the build passes all checks but perhaps that of its range. -/
theorem passesUpToRange_encode {cap : Byte} {i : Instr} (hcap : i.builtIn cap = true) : PassesUpToRange cap (encode i) where
  op := by cases i <;> simp [encode, plainWord]
  rsv := by cases i <;> simp [encode, plainWord]
  present := builtIn_iff.mp hcap
  keyed := by cases i <;> simp [encode, plainWord, Prim.keyed]
  unnamed := by cases i <;> simp [encode, plainWord]
  unused := unusedFieldSet_encode i
  var := fun _ => varIllegal_encode i

/-! ### The range constraints -/

/-- A command of the build decodes to itself or is out of range. -/
theorem decode_encode_of_builtIn {cap : Byte} {i : Instr} (hcap : i.builtIn cap = true) :
    decode cap (encode i) = if i.wellFormed = true then .ok i else .error .eRange := by
  split
  case isTrue hwf => exact decodeOfEncodeIsTheCommand cap i hwf hcap
  case isFalse hwf =>
    have hrange : encodingCheck cap (encode i) = some .eRange := by
      rw [(passesUpToRange_encode hcap).encodingCheck_eq, if_pos]
      simpa [wellFormed_iff] using hwf
    rw [decode, hrange]

theorem builtIn_reference (i : Instr) : i.builtIn 0xFF#8 = true := by cases i <;> rfl

theorem decode_encode_eq_eRange_iff (i : Instr) :
    decode 0xFF#8 (encode i) = .error .eRange ↔ i.wellFormed = false := by
  rw [decode_encode_of_builtIn (builtIn_reference i)]
  cases i.wellFormed <;> simp

/-- Settles O6: in the full build a command decodes to `E_RANGE` exactly when it is not well formed. -/
theorem rangeViolationsGiveERange : Obligations.RangeViolationsGiveERange := by
  intro start count mode b
  simp only [decode_encode_eq_eRange_iff]
  refine ⟨?_, ?_, ?_, ?_, ?_, ?sparkle, ?jambu, ?_, ?_⟩
  case sparkle => exact decodeOfEncodeIsTheCommand _ _ rfl rfl
  case jambu => exact decodeOfEncodeIsTheCommand _ _ rfl rfl
  all_goals simp [Instr.wellFormed, roundsWithin]

/-! ### From the word to the command -/

theorem startField_eq_zero {c : Word} (h : unusedFieldSet c = false)
    (hu : usesStart (opField c).toNat (Prim.ofCode (primField c)) = false) : startField c = 0#8 := by
  simp_all [unusedFieldSet]

theorem countField_eq_zero {c : Word} (h : unusedFieldSet c = false) (hu : (opField c).toNat ≠ 5) : countField c = 0#8 := by
  simp_all [unusedFieldSet, usesCount, opRounds]

theorem varField_eq_zero {c : Word} (h : unusedFieldSet c = false)
    (hu : usesVar (opField c).toNat (Prim.ofCode (primField c)) = false) : varField c = 0#4 := by
  simp_all [unusedFieldSet]

/-- A word of an operation other than `ROUNDS` is given by its `OP` and its `PRIM`. -/
theorem commandWord_eq_of_op {cap : Byte} {c : Word} {op prim : Nibble} (h : PassesUpToRange cap c)
    (hop : (opField c).toNat = op.toNat) (hrounds : op.toNat ≠ 5) (hprim : primField c = prim) :
    commandWord op prim 0#8 0#8 0#4 = c := by
  have hne : (opField c).toNat ≠ 5 := hop ▸ hrounds
  have hstart := startField_eq_zero h.unused (by simp [usesStart, opRounds, hne])
  have hcount := countField_eq_zero h.unused hne
  have hvar := varField_eq_zero h.unused (by simp [usesVar, opRounds, hne])
  have hfields := commandWord_fields h.rsv
  rwa [BitVec.eq_of_toNat_eq hop, hprim, hstart, hcount, hvar] at hfields

/-- A `ROUNDS` word is given by its primitive and its operands. -/
theorem commandWord_eq_of_rounds {cap : Byte} {c : Word} {p : Prim} (h : PassesUpToRange cap c) (hop : (opField c).toNat = 5)
    (hp : Prim.ofCode (primField c) = some p) :
    commandWord 5#4 p.code (startField c) (countField c) (varField c) = c := by
  have h5 : opField c = 5#4 := BitVec.eq_of_toNat_eq hop
  rw [Prim.code_of_ofCode hp, ← h5, commandWord_fields h.rsv]

/-- A `ROUNDS` word of a primitive that uses no `VAR` is given by its START and COUNT. -/
theorem commandWord_eq_of_range {cap : Byte} {c : Word} {p : Prim} (h : PassesUpToRange cap c) (hop : (opField c).toNat = 5)
    (hp : Prim.ofCode (primField c) = some p) (hu : usesVar 5 (some p) = false) :
    commandWord 5#4 p.code (startField c) (countField c) 0#4 = c := by
  have hvar := varField_eq_zero h.unused (by rw [hop, hp, hu])
  have hword := commandWord_eq_of_rounds h hop hp
  rwa [hvar] at hword

/-- The row of a word that passes the checks up to the range encodes to the word. -/
theorem encode_of_rowOf {cap : Byte} {c : Word} {i : Instr} (h : PassesUpToRange cap c) (hrow : rowOf c = some i) :
    encode i = c := by
  unfold rowOf at hrow
  split at hrow
  -- `NOP` and `CLEAR`
  iterate 2
    next hop =>
      cases hrow
      exact commandWord_eq_of_op h hop (by decide) (h.unnamed (by omega))
  -- `TOINT`, `TOEXT` and `SCHED`
  iterate 19
    next hop hp =>
      cases hrow
      exact commandWord_eq_of_op h hop (by decide) (Prim.code_of_ofCode hp).symm
  -- `ROUNDS` of GIFT, SKINNY and ASCON
  iterate 3
    next hop hp =>
      cases hrow
      exact commandWord_eq_of_range h hop hp rfl
  -- `ROUNDS` of GRAIN
  next hop hp =>
    cases hrow
    have hstart := startField_eq_zero h.unused (by rw [hop, hp]; rfl)
    have hvar : (varField c).extractLsb' 2 2 = 0#2 := by simpa [varIllegal, hp] using h.var hop
    have hword := commandWord_eq_of_rounds h hop hp
    rwa [hstart, ← grainVar_of_fields hvar] at hword
  -- `ROUNDS` of SPARKLE
  next hop hp =>
    obtain ⟨b, hb, rfl⟩ := Option.map_eq_some_iff.mp hrow
    have hword := commandWord_eq_of_rounds h hop hp
    rwa [← Branches.var_of_ofVar hb] at hword
  -- `ROUNDS` of JAMBU
  next hop hp =>
    cases hrow
    have hstart := startField_eq_zero h.unused (by rw [hop, hp]; rfl)
    have hword := commandWord_eq_of_range h hop hp rfl
    rwa [hstart] at hword
  -- `ROUNDS` of PHOTON and XOODOO
  iterate 2
    next hop hp =>
      cases hrow
      exact commandWord_eq_of_range h hop hp rfl
  -- No row
  cases hrow

/-- Settles O2: a word that decodes has passed the checks, and its fields are the operands of its row. -/
theorem encodeOfDecodeIsTheWord : Obligations.EncodeOfDecodeIsTheWord := by
  intro cap c i hdecode
  obtain ⟨hcheck, hrow⟩ := decode_ok_iff.mp hdecode
  obtain ⟨hpass, hrange⟩ := passesUpToRange_of_encodingCheck hcheck
  have hword : encode i = c := encode_of_rowOf hpass hrow
  subst hword
  exact ⟨rfl, wellFormed_iff.mpr hrange, builtIn_iff.mpr hpass.present⟩

/-! ### Rows -/

theorem exists_ofCode_of_present {cap : Byte} {n : Nibble} (h : primAbsent cap n = false) : ∃ p, Prim.ofCode n = some p := by
  rcases ofCode_reserved_or_code n with ⟨-, hreserved⟩ | ⟨p, hp, -⟩
  · simp [primAbsent, hreserved] at h
  · exact ⟨p, hp⟩

theorem isSome_ofVar {v : Nibble} (h : v.toNat < 3) : (Branches.ofVar v).isSome = true := by
  revert h; revert v; decide

/-- A word that passes the checks up to the range has a row. -/
theorem exists_rowOf {cap : Byte} {c : Word} (h : PassesUpToRange cap c) : ∃ i, rowOf c = some i := by
  rcases Nat.lt_or_ge (opField c).toNat 2 with hlow | hnamed
  · have hop : (opField c).toNat = 0 ∨ (opField c).toNat = 1 := by omega
    rcases hop with hop | hop <;> simp [rowOf, hop]
  · obtain ⟨p, hp⟩ := exists_ofCode_of_present (h.present hnamed)
    have hop : (opField c).toNat = 2 ∨ (opField c).toNat = 3 ∨ (opField c).toNat = 4 ∨ (opField c).toNat = 5 := by
      have := h.op
      omega
    rcases hop with hop | hop | hop | hop
    case inl | inr.inl => cases p <;> simp [rowOf, hop, hp]
    case inr.inr.inl =>
      have hkeyed : p.keyed = true := by simpa [hp] using h.keyed hop
      cases p <;> simp [rowOf, hop, hp, Prim.keyed] at hkeyed ⊢
    case inr.inr.inr =>
      cases p
      case sparkle =>
        have hvar : (varField c).toNat < 3 := by simpa [varIllegal, hp] using h.var hop
        obtain ⟨b, hb⟩ := Option.isSome_iff_exists.mp (isSome_ofVar hvar)
        simp [rowOf, hop, hp, hb]
      all_goals simp [rowOf, hop, hp]

/-- The word of a command matches the command's row (30_encoding.md R92). -/
theorem rowMatches_encode (i : Instr) : i.rowMatches (encode i) = true := by
  cases i
  case roundsGift start count => exact Laws.EncodedRow.roundsGift start count
  case roundsSkinny start count => exact Laws.EncodedRow.roundsSkinny start count
  case roundsAscon start count => exact Laws.EncodedRow.roundsAscon start count
  case roundsGrain count width mode => exact Laws.EncodedRow.roundsGrain count width mode
  case roundsSparkle start count b => exact Laws.EncodedRow.roundsSparkle start count b
  case roundsJambu count => exact Laws.EncodedRow.roundsJambu count
  case roundsPhoton start count => exact Laws.EncodedRow.roundsPhoton start count
  case roundsXoodoo start count => exact Laws.EncodedRow.roundsXoodoo start count
  all_goals rfl

/-- Every row has its match in the low byte, OP and PRIM, and all of that byte under its mask. -/
theorem matchAndMask_lowByte (i : Instr) :
    i.matchAndMask.1 &&& 0xFF#32 = i.matchAndMask.1 ∧ i.matchAndMask.2 &&& 0xFF#32 = 0xFF#32 := by
  cases i <;> simp only [Instr.matchAndMask] <;> decide

/-- The match of a row that a word matches is the word's low byte. -/
theorem match_eq_of_rowMatches {i : Instr} {c : Word} (h : i.rowMatches c = true) : i.matchAndMask.1 = c &&& 0xFF#32 := by
  obtain ⟨hmatch, hmask⟩ := matchAndMask_lowByte i
  rw [Instr.rowMatches, beq_iff_eq] at h
  rw [← hmatch, ← h, BitVec.and_assoc, hmask]

/-- The match of a row is a word of the row. -/
theorem rowOf_match (i : Instr) : (rowOf i.matchAndMask.1).map Instr.matchAndMask = some i.matchAndMask := by
  cases i <;> simp only [Instr.matchAndMask] <;> rfl

theorem matchAndMask_eq_of_match_eq {i j : Instr} (h : i.matchAndMask.1 = j.matchAndMask.1) :
    i.matchAndMask = j.matchAndMask := by
  have hrow := rowOf_match i
  rwa [h, rowOf_match j, eq_comm, Option.some_inj] at hrow

/-- Settles O3: the first check on numbers that fails is the decoder's; a word that passes them all has a row, encodes it and so
matches it; and a row is known from its match, the low byte of the word. -/
theorem everyWordIsOneRowOrOneErrorCode : Obligations.EveryWordIsOneRowOrOneErrorCode := by
  intro s c
  have hcheck := firstCode_take_checksOf s c
  refine ⟨?_, fun i j hi hj =>
    matchAndMask_eq_of_match_eq ((match_eq_of_rowMatches hi).trans (match_eq_of_rowMatches hj).symm)⟩
  rw [firstCode] at hcheck
  split
  case h_1 check hfind =>
    have hsome : encodingCheck s.primPresent c = some check.2 := by rw [← hcheck, hfind, Option.map_some]
    rw [decode, hsome]
  case h_2 hfind =>
    have hnone : encodingCheck s.primPresent c = none := by rw [← hcheck, hfind, Option.map_none]
    obtain ⟨hpass, -⟩ := passesUpToRange_of_encodingCheck hnone
    obtain ⟨i, hrow⟩ := exists_rowOf hpass
    refine ⟨i, decode_ok_iff.mpr ⟨hnone, hrow⟩, ?_⟩
    rw [← encode_of_rowOf hpass hrow]
    exact rowMatches_encode i

/-! ### Words written out -/

/-- A command word as the sum of its fields, each at its place (30_encoding.md R80). -/
theorem commandWord_eq_ofNat (op prim : Nibble) (start count : Byte) (var : Nibble) :
    commandWord op prim start count var = BitVec.ofNat 32 (op.toNat + 16 * prim.toNat + 256 * start.toNat +
      65536 * count.toNat + 0x1000000 * var.toNat) := by
  refine BitVec.eq_of_toNat_eq ?_
  simp only [commandWord, toNat_append_eq_add, BitVec.toNat_ofNat]
  omega

/-- In the full build the word of a well-formed command decodes to it. -/
theorem decode_reference_of_encode_eq {c : Word} {i : Instr} (hwf : i.wellFormed = true) (hword : encode i = c) :
    decode 0xFF#8 c = .ok i := hword ▸ decodeOfEncodeIsTheCommand 0xFF#8 i hwf (builtIn_reference i)

/-- Settles O4: each word is that of its command. -/
theorem tableWordsDecodeToTheirCommands : Obligations.TableWordsDecodeToTheirCommands := by
  unfold Obligations.TableWordsDecodeToTheirCommands
  refine ⟨⟨?_, ?_⟩, ⟨?_, ?_, ?_, ?_, ?_, ?_, ?_, ?_⟩, ⟨?_, ?_, ?_, ?_, ?_, ?_, ?_, ?_⟩, ⟨?_, ?_, ?_⟩,
    ⟨?_, ?_, ?_, ?_, ?_, ?_, ?_, ?_, ?_⟩⟩ <;> exact decode_reference_of_encode_eq rfl rfl

/-- The last n of the 12 rounds of a permutation are a well-formed range, for every n. -/
theorem roundsWithin_last (n : Fin 13) : roundsWithin 12 (BitVec.ofNat 8 (12 - n.val)) (BitVec.ofNat 8 n.val) = true := by
  revert n; decide

/-- The word of the last n of the 12 rounds of a permutation. -/
theorem commandWord_last (n : Fin 13) (p : Prim) :
    commandWord 5#4 p.code (BitVec.ofNat 8 (12 - n.val)) (BitVec.ofNat 8 n.val) 0#4 =
      BitVec.ofNat 32 (5 + 16 * p.code.toNat + 256 * (12 - n.val) + 65536 * n.val) := by
  rw [commandWord_eq_ofNat]
  congr 1
  simp only [BitVec.toNat_ofNat]
  omega

/-- Settles O5: each word is the sum of the fields of the expansion, which is well formed. -/
theorem pseudoInstructionsAreRoundsWords : Obligations.PseudoInstructionsAreRoundsWords := by
  refine ⟨fun n => ⟨?_, ?_, ?_⟩, fun b n => ?_, ?_, ?_, fun n hn => ?_⟩
  · exact decode_reference_of_encode_eq (roundsWithin_last n) (commandWord_last n .ascon)
  · exact decode_reference_of_encode_eq (roundsWithin_last n) (commandWord_last n .xoodoo)
  · exact decode_reference_of_encode_eq (roundsWithin_last n) (commandWord_last n .photon)
  · refine decode_reference_of_encode_eq rfl ((commandWord_eq_ofNat _ _ _ _ _).trans ?_)
    cases b <;> simp [Prim.code, Branches.var, Branches.number]
  · exact decode_reference_of_encode_eq rfl rfl
  · exact decode_reference_of_encode_eq rfl rfl
  · refine decode_reference_of_encode_eq (decide_eq_true hn) ((commandWord_eq_ofNat _ _ _ _ _).trans ?_)
    simp [Prim.code, grainVar]

end Sys2Proof.Machine

/-! ## Rounds with COUNT = 0 (30_encoding.md R88) -/

namespace Sys2Proof.Machine

/-! ### Storing what was loaded -/

/-- The first words of a word file laid over it change nothing. -/
theorem overlay_ofFn {n : Nat} (hn : n ≤ 16) (w : Words) : overlay w (List.ofFn fun k : Fin n => w[k.val]) = w := by
  refine Vector.ext fun k hk => ?_
  by_cases hv : k < n
  · rw [overlay_inside _ _ k hk (by simpa using hv), List.getElem_ofFn]
  · exact overlay_outside _ _ k hk (by simpa using hv)

theorem toNat_pack128 (v0 v1 v2 v3 : Word) :
    (pack128 v0 v1 v2 v3).toNat = v0.toNat + 2 ^ 32 * v1.toNat + 2 ^ 64 * v2.toNat + 2 ^ 96 * v3.toNat := by
  simp only [pack128, toNat_append_eq_add]
  omega

theorem unpack128_pack128 (v0 v1 v2 v3 : Word) : unpack128 (pack128 v0 v1 v2 v3) = [v0, v1, v2, v3] := by
  simp only [unpack128, List.cons.injEq, and_true, ← BitVec.toNat_inj, BitVec.extractLsb'_toNat, toNat_pack128,
    Nat.shiftRight_eq_div_pow]
  omega

theorem lowHigh_append (hi lo : Word) : lowHigh (hi ++ lo) = [lo, hi] := by
  simp only [lowHigh, List.cons.injEq, and_true, ← BitVec.toNat_inj, BitVec.extractLsb'_toNat, toNat_append_eq_add,
    Nat.shiftRight_eq_div_pow]
  omega

theorem giftStore_giftLoad (w : Words) : giftStore (giftLoad w) = List.ofFn fun k : Fin 4 => w[k.val] := rfl

theorem asconStore_asconLoad (w : Words) : asconStore (asconLoad w) = List.ofFn fun k : Fin 10 => w[k.val] := by
  simp only [asconStore, asconLoad, lowHigh_append]
  rfl

theorem grainStore_grainLoad (w : Words) : grainStore (grainLoad w) = List.ofFn fun k : Fin 8 => w[k.val] := by
  simp only [grainStore, grainLoad, unpack128_pack128]
  rfl

theorem unpack128_jambuLoad (w : Words) : unpack128 (jambuLoad w) = List.ofFn fun k : Fin 4 => w[k.val] :=
  unpack128_pack128 _ _ _ _

theorem skinnyStore_skinnyLoad (w : Words) : skinnyStore (skinnyLoad w) = List.ofFn fun k : Fin 4 => w[k.val] := by
  have hbytes : (skinnyLoad w).toList = le32Bytes (List.ofFn fun k : Fin 4 => w[k.val]) := rfl
  rw [skinnyStore, hbytes, le32Words_le32Bytes]

theorem xoodooLoad_toList (w : Words) : (xoodooLoad w).toList = List.ofFn fun k : Fin 12 => w[k.val] := rfl

theorem photonCell_photonLoad (w : Words) {r c : Nat} (hr : r < 8) (hc : c < 8) :
    photonCell (photonLoad w) r c = w[r].extractLsb' (4 * c) 4 := by
  rw [photonCell, photonLoad, Vector.getElem?_eq_getElem (by omega), Option.getD_some, tabulate_getElem]
  simp only [show (8 * r + c) / 8 = r by omega, show (8 * r + c) % 8 = c by omega]

theorem photonRowWord_photonLoad (w : Words) {r : Nat} (hr : r < 8) : photonRowWord (photonLoad w) r = w[r] := by
  refine BitVec.eq_of_toNat_eq ?_
  simp only [photonRowWord, photonCell_photonLoad w hr, toNat_append_eq_add, BitVec.extractLsb'_toNat,
    Nat.shiftRight_eq_div_pow, Nat.reduceLT]
  omega

theorem photonStore_photonLoad (w : Words) : photonStore (photonLoad w) = List.ofFn fun k : Fin 8 => w[k.val] := by
  refine List.ext_getElem (by simp [photonStore]) fun k hk _ => ?_
  have hrow : k < 8 := by simpa [photonStore] using hk
  rw [List.getElem_ofFn, ← photonRowWord_photonLoad w hrow]
  simp [photonStore]

/-! ### No rounds -/

theorem giftRounds_zero (m : Material) (start : Nat) (w : Words) : giftRounds m start 0 w = w := by
  rw [giftRounds, roundsFrom_zero, giftStore_giftLoad, overlay_ofFn (by decide)]

theorem skinnyRounds_zero (tk : SkinnyTweakey) (start : Nat) (w : Words) : skinnyRounds tk start 0 w = w := by
  rw [skinnyRounds, roundsFrom_zero, skinnyStore_skinnyLoad, overlay_ofFn (by decide)]

theorem asconRounds_zero (start : Nat) (w : Words) : asconRounds start 0 w = w := by
  rw [asconRounds, roundsFrom_zero, asconStore_asconLoad, overlay_ofFn (by decide)]

theorem grainRounds_zero (width : GrainWidth) (mode : GrainMode) (w : Words) : grainRounds width mode 0 w = w := by
  rw [grainRounds, roundsFrom_zero, grainStore_grainLoad, overlay_ofFn (by decide)]

theorem sparkleRounds_zero (b : Branches) (start : Nat) (w : Words) : sparkleRounds b.number start 0 w = w := by
  rw [sparkleRounds, roundsFrom_zero]
  cases b
  case b4 => exact overlay_ofFn (n := 8) (by decide) w
  case b6 => exact overlay_ofFn (n := 12) (by decide) w
  case b8 => exact overlay_ofFn (n := 16) (by decide) w

theorem jambuRounds_zero (m : Material) (w : Words) : jambuRounds m 0 w = w := by
  rw [jambuRounds, Nat.mul_zero, roundsFrom_zero, unpack128_jambuLoad, overlay_ofFn (by decide)]

theorem photonRounds_zero (start : Nat) (w : Words) : photonRounds start 0 w = w := by
  rw [photonRounds, roundsFrom_zero, photonStore_photonLoad, overlay_ofFn (by decide)]

theorem xoodooRounds_zero (start : Nat) (w : Words) : xoodooRounds start 0 w = w := by
  rw [xoodooRounds, roundsFrom_zero, xoodooLoad_toList, overlay_ofFn (by decide)]

/-! ### Only completion -/

/-- A well-formed command that finds its requirements met, and whose effect leaves the state as it is, only completes. -/
theorem exec_only_completes {i : Instr} {s : State} {p : Prim} {w : Words} (hwf : i.wellFormed = true)
    (hneeds : layoutNeeded i = some p) (hpresent : s.present p = true) (hlayout : s.layoutIs p = true)
    (hmaterial : (materialNeeded i).all s.materialIs = true) (heffect : effectOf i s = { s with w := w }) (hw : w = s.w) :
    exec i s = .next { s with done := true, pend := none } := by
  have hcap : i.builtIn s.primPresent = true := by
    rw [Instr.builtIn, prim?_of_layoutNeeded hneeds]
    exact hpresent
  have hcheck : issueCheck s (encode i) = none := by
    rw [issueCheck_encode hwf hcap, tagCheck_encode, hneeds]
    cases hm : materialNeeded i <;> simp_all
  rw [exec_completes_of_issueCheck hcheck, heffect, hw]
  rfl

/-- Settles O50: no rounds leave the word file as it is, since what is stored is what was loaded. -/
theorem zeroCountOnlyCompletes : Obligations.ZeroCountOnlyCompletes := by
  intro s start width mode b
  refine ⟨fun hstart hp hl hm => ?gift, fun hstart hp hl hm => ?skinny, fun hstart hp hl => ?ascon, fun hp hl => ?grain,
    fun hp hl => ?sparkle, fun hp hl hm => ?jambu, fun hstart hp hl => ?photon, fun hstart hp hl => ?xoodoo⟩
  case gift => exact exec_only_completes (decide_eq_true hstart) rfl hp hl hm rfl (giftRounds_zero _ _ _)
  case skinny => exact exec_only_completes (decide_eq_true hstart) rfl hp hl hm rfl (skinnyRounds_zero _ _ _)
  case ascon => exact exec_only_completes (decide_eq_true hstart) rfl hp hl rfl rfl (asconRounds_zero _ _)
  case grain => exact exec_only_completes (by cases width <;> rfl) rfl hp hl rfl rfl (grainRounds_zero _ _ _)
  case sparkle => exact exec_only_completes rfl rfl hp hl rfl rfl (sparkleRounds_zero _ _ _)
  case jambu => exact exec_only_completes rfl rfl hp hl hm rfl (jambuRounds_zero _ _)
  case photon => exact exec_only_completes (decide_eq_true hstart) rfl hp hl rfl rfl (photonRounds_zero _ _)
  case xoodoo => exact exec_only_completes (decide_eq_true hstart) rfl hp hl rfl rfl (xoodooRounds_zero _ _)

end Sys2Proof.Machine

/-! ## Control commands (40_control.md R110 to R115) -/

namespace Sys2Proof.Machine

/-- A well-formed command of the build that asks nothing of the tags has its effect and completes from every state. -/
theorem exec_completes_of_no_tags {i : Instr} {s : State} (hwf : i.wellFormed = true) (hcap : i.builtIn s.primPresent = true)
    (hlayout : layoutNeeded i = none) (hmaterial : materialNeeded i = none) : exec i s = .next (effectOf i s).finish := by
  have htag : tagCheck s (encode i) = none := by
    rw [tagCheck_encode, hlayout, hmaterial]
    rfl
  exact exec_completes_of_issueCheck ((issueCheck_encode hwf hcap).trans htag)

/-- The checks on a word of an operation that names no primitive are those for `E_FIELD` (60_exceptions.md R341). -/
theorem encodingCheck_of_unnamed {cap : Byte} {c : Word} (hop : (opField c).toNat < 2) :
    encodingCheck cap c = none ∨ encodingCheck cap c = some .eField := by
  have hcase : (opField c).toNat = 0 ∨ (opField c).toNat = 1 := by omega
  rcases hcase with h | h
  all_goals
    simp only [encodingCheck, opSched, opRounds, h, Nat.reduceLeDiff, Nat.reduceBEq, decide_false, Bool.false_and,
      Bool.false_eq_true, if_false]
    split_ifs <;> simp

/-- A word with the operation of `NOP` or `CLEAR` that has another field set is an `E_FIELD` (40_control.md R110, R111). -/
theorem decode_eq_eField_of_unnamed {cap : Byte} {c : Word} {op : Nibble} (hlow : op.toNat < 2) (hop : opField c = op)
    (hne : c ≠ commandWord op 0#4 0#8 0#8 0#4) : decode cap c = .error .eField := by
  have hunnamed : (opField c).toNat < 2 := hop ▸ hlow
  rcases encodingCheck_of_unnamed (cap := cap) hunnamed with hnone | hfield
  · obtain ⟨hpass, -⟩ := passesUpToRange_of_encodingCheck hnone
    have hword := commandWord_eq_of_op hpass (congrArg BitVec.toNat hop) (by omega) (hpass.unnamed hunnamed)
    exact absurd hword.symm hne
  · rw [decode, hfield]

/-- Settles O34: `NOP` asks nothing and its effect leaves the state as it is, so only the completion is left. -/
theorem nopOnlyCompletes : Obligations.NopOnlyCompletes :=
  ⟨fun _ => exec_completes_of_no_tags (i := .nop) rfl rfl rfl rfl, rfl, fun _ _ => decode_eq_eField_of_unnamed (by decide)⟩

/-- Settles O35: `CLEAR` asks nothing, and its effect is the empty memory and constant files. -/
theorem clearZeroesWordsBuffersMaterialTags : Obligations.ClearZeroesWordsBuffersMaterialTags := by
  refine ⟨⟨rfl, fun _ _ => decode_eq_eField_of_unnamed (by decide)⟩, fun s => ?_⟩
  have hclear : exec .clear s = .next (clearEffect s).finish := exec_completes_of_no_tags rfl rfl rfl rfl
  exact ⟨(clearEffect s).w, (clearEffect s).mem, (clearEffect s).mkey, hclear, fun i h => tabulate_getElem _ i h,
    fun _ _ => rfl, fun _ _ => rfl, fun i h => tabulate_getElem _ i h⟩

/-- Settles O36: `SCHED` asks only that its primitive is built in, and its material is the snapshot of `KEY`. -/
theorem schedCopiesTheKey : Obligations.SchedCopiesTheKey := by
  intro s q hq hpresent
  have hsched : exec q.1 s = .next (schedule q.2 s).finish := by
    simp only [List.mem_cons, List.not_mem_nil, or_false] at hq
    rcases hq with rfl | rfl | rfl <;> exact exec_completes_of_no_tags rfl hpresent rfl rfl
  exact ⟨s.keySnapshot, hsched, fun i h => tabulate_getElem _ i h⟩

end Sys2Proof.Machine

/-! ## Layouts (41_layout.md R130 to R149) -/

namespace Sys2Proof.Machine

/-! ### Functions that work block by block -/

/-- The function takes each `m` items of its input to the `n` items that `block` makes of them, whatever follows. -/
structure Blockwise {α β : Type} (g : List α → List β) (m n : Nat) (block : (Nat → α) → List β) : Prop where
  nil : g [] = []
  append : ∀ (f : Nat → α) (rest : List α), g ((List.range m).map f ++ rest) = block f ++ g rest
  length : ∀ f, (block f).length = n

theorem blockwise_le32Words : Blockwise le32Words 4 1 fun f => [le32 (f 0) (f 1) (f 2) (f 3)] :=
  ⟨rfl, fun _ _ => rfl, fun _ => rfl⟩

theorem blockwise_be32Words : Blockwise be32Words 4 1 fun f => [be32 (f 0) (f 1) (f 2) (f 3)] :=
  ⟨rfl, fun _ _ => rfl, fun _ => rfl⟩

theorem blockwise_be64WordPairs :
    Blockwise be64WordPairs 8 2 fun f => [be32 (f 4) (f 5) (f 6) (f 7), be32 (f 0) (f 1) (f 2) (f 3)] :=
  ⟨rfl, fun _ _ => rfl, fun _ => rfl⟩

theorem blockwise_le32Bytes : Blockwise le32Bytes 1 4 fun f => putLE32 (f 0) :=
  ⟨rfl, fun _ _ => rfl, fun _ => rfl⟩

theorem blockwise_be32Bytes : Blockwise be32Bytes 1 4 fun f => putBE32 (f 0) :=
  ⟨rfl, fun _ _ => rfl, fun _ => rfl⟩

theorem blockwise_be64Bytes : Blockwise be64Bytes 2 8 fun f => putBE32 (f 1) ++ putBE32 (f 0) :=
  ⟨rfl, fun _ _ => rfl, fun _ => rfl⟩

/-- Item j of block k is made of the items of block k. -/
theorem Blockwise.getElem? {α β : Type} {g : List α → List β} {m n : Nat} {block : (Nat → α) → List β}
    (hg : Blockwise g m n block) (f : Nat → α) {count k j : Nat} (hk : k < count) (hj : j < n) :
    (g ((List.range (m * count)).map f))[n * k + j]? = (block fun t => f (m * k + t))[j]? := by
  induction count generalizing f k with
  | zero => omega
  | succ count ih =>
    have hsplit : (List.range (m * (count + 1))).map f =
        (List.range m).map f ++ (List.range (m * count)).map fun t => f (m + t) := by
      rw [Nat.mul_succ, Nat.add_comm, List.range_add, List.map_append, List.map_map]
      rfl
    rw [hsplit, hg.append]
    cases k with
    | zero =>
      rw [Nat.mul_zero, Nat.zero_add, List.getElem?_append_left (by rw [hg.length]; exact hj)]
      simp
    | succ k =>
      have hindex : n * (k + 1) + j - n = n * k + j := by rw [Nat.mul_succ]; omega
      rw [List.getElem?_append_right (by rw [hg.length, Nat.mul_succ]; omega), hg.length, hindex,
        ih (fun t => f (m + t)) (by omega)]
      simp only [Nat.mul_succ, Nat.add_comm, Nat.add_left_comm]

/-! ### Words and bytes at their places -/

theorem firstWords_eq_map_range {n : Nat} (hn : n ≤ 16) (w : Words) :
    firstWords n w = (List.range n).map fun k => (w[k]?).getD 0#32 := by
  refine List.ext_getElem (by simp [hn]) fun k hk _ => ?_
  have hk16 : k < 16 := by rw [firstWords_length] at hk; omega
  simp [firstWords, hk16]

/-- Byte i of words stored one after the other is of word i / 4. -/
theorem Blockwise.firstWords_getElem? {g : List Word → List Byte} {put : Word → List Byte}
    (hg : Blockwise g 1 4 fun f => put (f 0)) (w : Words) {n i : Nat} (hn : n ≤ 16) (hi : i < 4 * n) :
    (g (firstWords n w))[i]? = (put ((w[i / 4]?).getD 0#32))[i % 4]? := by
  have hblock := hg.getElem? (fun k => (w[k]?).getD 0#32) (count := n) (k := i / 4) (j := i % 4) (by omega) (by omega)
  rwa [Nat.div_add_mod, Nat.one_mul, Nat.one_mul, ← firstWords_eq_map_range hn] at hblock

theorem putLE32_getElem? (v : Word) {j : Nat} (hj : j < 4) : (putLE32 v)[j]? = some (byteOf v j) := by
  match j with
  | 0 | 1 | 2 | 3 => rfl

theorem putBE32_getElem? (v : Word) {j : Nat} (hj : j < 4) : (putBE32 v)[j]? = some (byteOf v (3 - j)) := by
  match j with
  | 0 | 1 | 2 | 3 => rfl

/-- The eight bytes of a doubleword, most significant first, from its halves (00_scope.md R13). -/
theorem putBE32_append_getElem? (hi lo : Word) {j : Nat} (hj : j < 8) :
    (putBE32 hi ++ putBE32 lo)[j]? = some ((hi ++ lo : BitVec 64).extractLsb' (8 * (7 - j)) 8) := by
  have hlength : (putBE32 hi).length = 4 := rfl
  rcases Nat.lt_or_ge j 4 with hhigh | hlow
  · rw [List.getElem?_append_left (by omega), putBE32_getElem? hi hhigh,
      BitVec.extractLsb'_append_eq_of_le (by omega), byteOf, show 8 * (7 - j) - 32 = 8 * (3 - j) by omega]
  · rw [List.getElem?_append_right (by omega), hlength, putBE32_getElem? lo (by omega),
      BitVec.extractLsb'_append_eq_of_add_le (by omega), byteOf, show 3 - (j - 4) = 7 - j by omega]

/-- The word of a load that makes one word of four bytes. -/
theorem Blockwise.dataBytes_getElem? {g : List Byte → List Word} {load : Byte → Byte → Byte → Byte → Word}
    (hg : Blockwise g 4 1 fun f => [load (f 0) (f 1) (f 2) (f 3)]) (s : State) {n k : Nat} (hk : k < n) :
    (g (s.dataBytes (4 * n)))[k]? =
      some (load (s.data (4 * k)) (s.data (4 * k + 1)) (s.data (4 * k + 2)) (s.data (4 * k + 3))) := by
  have hblock := hg.getElem? s.data hk Nat.one_pos
  rwa [Nat.one_mul] at hblock

/-- The words of a doubleword that is loaded. -/
theorem be64WordPairs_dataBytes_getElem? (s : State) {n i : Nat} (hi : i < n) :
    (be64WordPairs (s.dataBytes (8 * n)))[2 * i]? =
        some (be32 (s.data (8 * i + 4)) (s.data (8 * i + 5)) (s.data (8 * i + 6)) (s.data (8 * i + 7))) ∧
      (be64WordPairs (s.dataBytes (8 * n)))[2 * i + 1]? =
        some (be32 (s.data (8 * i)) (s.data (8 * i + 1)) (s.data (8 * i + 2)) (s.data (8 * i + 3))) :=
  ⟨blockwise_be64WordPairs.getElem? s.data hi Nat.two_pos, blockwise_be64WordPairs.getElem? s.data hi Nat.one_lt_two⟩

/-- The bytes of a doubleword that is stored. -/
theorem be64Bytes_firstWords_getElem? (w : Words) {n i j : Nat} (hn : 2 * n ≤ 16) (hi : i < n) (hj : j < 8) :
    (be64Bytes (firstWords (2 * n) w))[8 * i + j]? =
      some (((w[2 * i + 1]?).getD 0#32 ++ (w[2 * i]?).getD 0#32 : BitVec 64).extractLsb' (8 * (7 - j)) 8) := by
  have hblock := blockwise_be64Bytes.getElem? (fun k => (w[k]?).getD 0#32) hi hj
  rwa [← firstWords_eq_map_range hn, putBE32_append_getElem? _ _ hj] at hblock

/-! ### The converter, by primitive -/

/-- `TOINT.p`. -/
def tointOf : Prim → Instr
  | .gift => .tointGift
  | .skinny => .tointSkinny
  | .ascon => .tointAscon
  | .grain => .tointGrain
  | .sparkle => .tointSparkle
  | .jambu => .tointJambu
  | .photon => .tointPhoton
  | .xoodoo => .tointXoodoo

/-- `TOEXT.p`. -/
def toextOf : Prim → Instr
  | .gift => .toextGift
  | .skinny => .toextSkinny
  | .ascon => .toextAscon
  | .grain => .toextGrain
  | .sparkle => .toextSparkle
  | .jambu => .toextJambu
  | .photon => .toextPhoton
  | .xoodoo => .toextXoodoo

/-- `IN_p`: one of three byte orders (41_layout.md R134 to R148). -/
def inOf : Prim → List Byte → List Word
  | .gift => be32Words
  | .ascon => be64WordPairs
  | .skinny | .grain | .sparkle | .jambu | .photon | .xoodoo => le32Words

/-- `OUT_p`: one of three byte orders (41_layout.md R135 to R149). -/
def outOf : Prim → List Word → List Byte
  | .gift => be32Bytes
  | .ascon => be64Bytes
  | .skinny | .grain | .sparkle | .jambu | .photon | .xoodoo => le32Bytes

/-- A well-formed command of the build whose layout `STATE` holds, and that asks for no material, has its effect and
completes. -/
theorem exec_completes_of_layout {i : Instr} {s : State} {p : Prim} (hwf : i.wellFormed = true)
    (hcap : i.builtIn s.primPresent = true) (hneeds : layoutNeeded i = some p) (hlayout : s.layoutIs p = true)
    (hmaterial : materialNeeded i = none) : exec i s = .next (effectOf i s).finish := by
  have htag : tagCheck s (encode i) = none := by
    simp [tagCheck_encode, hneeds, hlayout, hmaterial]
  exact exec_completes_of_issueCheck ((issueCheck_encode hwf hcap).trans htag)

theorem exec_tointOf {p : Prim} {s : State} (hpresent : s.present p = true) :
    exec (tointOf p) s = .next (toInternal p (inOf p) s).finish := by
  cases p <;> exact exec_completes_of_no_tags rfl hpresent rfl rfl

theorem exec_toextOf {p : Prim} {s : State} (hpresent : s.present p = true) (hlayout : s.layoutIs p = true) :
    exec (toextOf p) s = .next (toExternal p (outOf p) s).finish := by
  cases p <;> exact exec_completes_of_layout rfl hpresent rfl hlayout rfl

theorem primWords_le (p : Prim) : primWords p ≤ 16 := by cases p <;> decide

theorem inOf_length {p : Prim} {bytes : List Byte} (h : bytes.length = 4 * primWords p) :
    (inOf p bytes).length = primWords p := by
  cases p
  case gift => rw [inOf, be32Words_length, h]; rfl
  case ascon => rw [inOf, be64WordPairs_length, h]; rfl
  all_goals rw [inOf, le32Words_length, h]; rfl

theorem outOf_length {p : Prim} {words : List Word} (h : words.length = primWords p) :
    (outOf p words).length = 4 * primWords p := by
  cases p
  case gift => rw [outOf, be32Bytes_length, h]
  case ascon => rw [outOf, be64Bytes_length, h]; rfl
  all_goals rw [outOf, le32Bytes_length, h]

theorem outOf_inOf {p : Prim} {bytes : List Byte} (h : bytes.length = 4 * primWords p) :
    outOf p (inOf p bytes) = bytes := by
  cases p
  case gift => exact be32Bytes_be32Words bytes (by rw [h]; rfl)
  case ascon => exact be64Bytes_be64WordPairs bytes (by rw [h]; rfl)
  all_goals exact le32Bytes_le32Words bytes (by rw [h]; rfl)

theorem inOf_outOf {p : Prim} {words : List Word} (h : words.length = primWords p) :
    inOf p (outOf p words) = words := by
  cases p
  case gift => exact be32Words_be32Bytes words
  case ascon => exact be64WordPairs_be64Bytes words (by rw [h]; rfl)
  all_goals exact le32Words_le32Bytes words

/-! ### What the converter leaves in the words and in memory -/

theorem dataBytes_length (s : State) (n : Nat) : (s.dataBytes n).length = n := Memory.readBytes_length s.mem dataBase n

/-- Word k after `TOINT`: loaded, or 0 (41_layout.md R131). -/
theorem toInternal_w_getElem (p : Prim) (inWords : List Byte → List Word) (s : State) {k : Nat} (hk : k < 16) :
    (toInternal p inWords s).w[k] = ((inWords (s.dataBytes (4 * primWords p)))[k]?).getD 0#32 := by
  simp only [toInternal_w, overlay_getElem _ _ k hk, tabulate_getElem]

theorem toInternal_w_above (p : Prim) (s : State) {k : Nat} (hk : k < 16) (habove : primWords p ≤ k) :
    (toInternal p (inOf p) s).w[k] = 0#32 := by
  rw [toInternal_w_getElem p _ s hk, List.getElem?_eq_none (by rw [inOf_length (dataBytes_length s _)]; exact habove)]
  rfl

/-- All words after `TOINT` of a primitive that loads each word from four bytes. -/
theorem toInternal_w_of_load {p : Prim} {load : Byte → Byte → Byte → Byte → Word}
    (hload : Blockwise (inOf p) 4 1 fun f => [load (f 0) (f 1) (f 2) (f 3)]) (s : State) {k : Nat} (hk : k < 16) :
    (toInternal p (inOf p) s).w[k] =
      if k < primWords p then load (s.data (4 * k)) (s.data (4 * k + 1)) (s.data (4 * k + 2)) (s.data (4 * k + 3))
      else 0#32 := by
  split
  case isTrue hlow => rw [toInternal_w_getElem p _ s hk, hload.dataBytes_getElem? s hlow, Option.getD_some]
  case isFalse habove => exact toInternal_w_above p s hk (by omega)

/-- The words that `TOINT` loads are the first of the word file. -/
theorem firstWords_toInternal (p : Prim) (s : State) :
    firstWords (primWords p) (toInternal p (inOf p) s).w = inOf p (s.dataBytes (4 * primWords p)) := by
  have hlength := inOf_length (dataBytes_length s (4 * primWords p))
  refine List.ext_getElem (by rw [firstWords_primWords_length, hlength]) fun k hk hk' => ?_
  have hk16 : k < 16 := by have := primWords_le p; omega
  have hfirst : (firstWords (primWords p) (toInternal p (inOf p) s).w)[k] = (toInternal p (inOf p) s).w[k] := by
    simp [firstWords]
  rw [hfirst, toInternal_w_getElem p _ s hk16, List.getElem?_eq_getElem hk', Option.getD_some]

/-- A byte after `TOEXT` inside the primitive's bytes of `DATA` (41_layout.md R132). -/
theorem toExternal_read_inside {p : Prim} {outBytes : List Word → List Byte} {s : State} {i : Nat} {b : Byte}
    (hwf : s.mem.wf = true) (hbyte : (outBytes (firstWords (primWords p) s.w))[i]? = some b) :
    (toExternal p outBytes s).mem.read (dataBase + i) = b := by
  obtain ⟨hi, hb⟩ := List.getElem?_eq_some_iff.mp hbyte
  exact (Memory.read_writeBytes_inside _ hwf hi).trans hb

/-- A byte after `TOEXT` outside the primitive's bytes of `DATA` (41_layout.md R132). -/
theorem toExternal_read_outside {p : Prim} {s : State} {a : Nat}
    (ha : a < dataBase ∨ dataBase + 4 * primWords p ≤ a) :
    (toExternal p (outOf p) s).mem.read a = s.mem.read a :=
  Memory.read_writeBytes_outside _ (by rwa [outOf_length (firstWords_primWords_length p s.w)])

/-- Reading a run of bytes back where it was written gives the bytes. -/
theorem readBytes_writeBytes {m : Memory} (a : Nat) (bytes : List Byte) (hwf : m.wf = true) :
    (m.writeBytes a bytes).readBytes a bytes.length = bytes :=
  List.ext_getElem (by simp) fun i hi hi' => by
    rw [Memory.readBytes_getElem, Memory.read_writeBytes_inside bytes hwf hi']

/-! ### The statements -/

/-- Settles O37: the six primitives share one load, little-endian words. -/
theorem tointLittleEndianLayouts : Obligations.TointLittleEndianLayouts := by
  intro s q hq hpresent
  obtain ⟨hinstr, hin, hwords⟩ : q.1 = tointOf q.2.1 ∧ inOf q.2.1 = le32Words ∧ primWords q.2.1 = q.2.2 := by
    simp only [List.mem_cons, List.not_mem_nil, or_false] at hq
    rcases hq with rfl | rfl | rfl | rfl | rfl | rfl <;> exact ⟨rfl, rfl, rfl⟩
  refine ⟨(toInternal q.2.1 (inOf q.2.1) s).w, hinstr ▸ exec_tointOf hpresent, fun k hk => ?_⟩
  rw [← hwords]
  exact toInternal_w_of_load (hin ▸ blockwise_le32Words) s hk

/-- Settles O38: GIFT loads big-endian words, ASCON big-endian doublewords. -/
theorem tointBigEndianLayouts : Obligations.TointBigEndianLayouts := by
  intro s
  refine ⟨fun hpresent => ⟨(toInternal .gift (inOf .gift) s).w, exec_tointOf hpresent,
      fun k hk => toInternal_w_of_load (p := .gift) blockwise_be32Words s hk⟩,
    fun hpresent => ⟨(toInternal .ascon (inOf .ascon) s).w, exec_tointOf hpresent, fun i hi => ?_,
      fun k hk habove => toInternal_w_above .ascon s hk habove⟩⟩
  obtain ⟨hlow, hhigh⟩ := be64WordPairs_dataBytes_getElem? s hi
  have hbytes : 4 * primWords .ascon = 8 * 5 := rfl
  rw [toInternal_w_getElem _ _ s (by omega), toInternal_w_getElem _ _ s (by omega), inOf, hbytes, hlow, hhigh,
    Option.getD_some, Option.getD_some]

/-- Settles O39: the six primitives share one store, little-endian words. -/
theorem toextLittleEndianLayouts : Obligations.ToextLittleEndianLayouts := by
  intro s hwf q hq hpresent hlayout
  obtain ⟨hinstr, hout, hwords⟩ : q.1 = toextOf q.2.1 ∧ outOf q.2.1 = le32Bytes ∧ primWords q.2.1 = q.2.2 := by
    simp only [List.mem_cons, List.not_mem_nil, or_false] at hq
    rcases hq with rfl | rfl | rfl | rfl | rfl | rfl <;> exact ⟨rfl, rfl, rfl⟩
  refine ⟨(toExternal q.2.1 (outOf q.2.1) s).mem, hinstr ▸ exec_toextOf hpresent hlayout, fun i hi => ?_,
    fun a ha => toExternal_read_outside (hwords ▸ ha)⟩
  refine toExternal_read_inside hwf ?_
  rw [hout, blockwise_le32Bytes.firstWords_getElem? s.w (primWords_le _) (hwords ▸ hi), putLE32_getElem? _ (by omega)]
  rfl

/-- Settles O40: GIFT stores big-endian words, ASCON big-endian doublewords. -/
theorem toextBigEndianLayouts : Obligations.ToextBigEndianLayouts := by
  intro s hwf
  refine ⟨fun hpresent hlayout => ⟨(toExternal .gift (outOf .gift) s).mem, exec_toextOf hpresent hlayout, fun i hi => ?_,
      fun a ha => toExternal_read_outside ha⟩,
    fun hpresent hlayout => ⟨(toExternal .ascon (outOf .ascon) s).mem, exec_toextOf hpresent hlayout, fun i j hi hj => ?_,
      fun a ha => toExternal_read_outside ha⟩⟩
  · refine toExternal_read_inside hwf ?_
    exact (blockwise_be32Bytes.firstWords_getElem? s.w (by decide) hi).trans (putBE32_getElem? _ (by omega))
  · rw [Nat.add_assoc]
    refine toExternal_read_inside hwf ?_
    have hbyte := be64Bytes_firstWords_getElem? s.w (n := 5) (by decide) hi hj
    rwa [Vector.getElem?_eq_getElem (by omega), Vector.getElem?_eq_getElem (by omega)] at hbyte

/-- What `TOINT` loads, `TOEXT` stores back: memory is as it was (41_layout.md R133). -/
theorem toExternal_toInternal_mem (p : Prim) {s : State} (hwf : s.mem.wf = true) :
    (toExternal p (outOf p) (toInternal p (inOf p) s).finish).mem = s.mem := by
  rw [toExternal_mem, finish_w, finish_mem, toInternal_mem, firstWords_toInternal, outOf_inOf (dataBytes_length s _)]
  exact Memory.writeBytes_readBytes dataBase _ hwf

/-- What `TOEXT` stores, `TOINT` loads back (41_layout.md R133). -/
theorem toInternal_toExternal_w (p : Prim) {s : State} (hwf : s.mem.wf = true) {k : Nat} (hk : k < 16)
    (hlow : k < primWords p) : (toInternal p (inOf p) (toExternal p (outOf p) s).finish).w[k] = s.w[k] := by
  have hlength := firstWords_primWords_length p s.w
  have hdata : (toExternal p (outOf p) s).finish.dataBytes (4 * primWords p) = outOf p (firstWords (primWords p) s.w) := by
    rw [← outOf_length hlength]
    exact readBytes_writeBytes dataBase _ hwf
  rw [toInternal_w_getElem p _ _ hk, hdata, inOf_outOf hlength, List.getElem?_eq_getElem (by rw [hlength]; exact hlow),
    Option.getD_some]
  simp [firstWords]

/-- Settles O41: `IN_p` and `OUT_p` are inverse on a primitive's bytes and words. -/
theorem layoutRoundTrip : Obligations.LayoutRoundTrip := by
  intro s hwf q hq hpresent
  obtain ⟨htoint, htoext⟩ : q.1 = tointOf q.2.2 ∧ q.2.1 = toextOf q.2.2 := by
    simp only [List.mem_cons, List.not_mem_nil, or_false] at hq
    rcases hq with rfl | rfl | rfl | rfl | rfl | rfl | rfl | rfl <;> exact ⟨rfl, rfl⟩
  rw [htoint, htoext]
  refine ⟨⟨_, _, exec_tointOf hpresent, exec_toextOf hpresent ?_, toExternal_toInternal_mem q.2.2 hwf⟩,
    fun hlayout => ⟨_, _, exec_toextOf hpresent hlayout, exec_tointOf hpresent,
      fun k hk hlow => toInternal_toExternal_w q.2.2 hwf hk hlow⟩⟩
  simp [State.layoutIs]

end Sys2Proof.Machine

/-! ## Rounds on the word file (00_scope.md R14; 30_encoding.md R88)

A keyed primitive loads its state from the first words, runs its rounds on it, and stores it back. -/

namespace Sys2Proof.Machine

/-! ### Completion -/

/-- A well-formed command that finds its primitive built in and its tags set has its effect and completes. -/
theorem exec_completes_of_tags {i : Instr} {s : State} {p : Prim} (hwf : i.wellFormed = true)
    (hneeds : layoutNeeded i = some p) (hpresent : s.present p = true) (hlayout : s.layoutIs p = true)
    (hmaterial : (materialNeeded i).all s.materialIs = true) : exec i s = .next (effectOf i s).finish := by
  have hcap : i.builtIn s.primPresent = true := by
    rw [Instr.builtIn, prim?_of_layoutNeeded hneeds]
    exact hpresent
  have htag : tagCheck s (encode i) = none := by
    rw [tagCheck_encode, hneeds]
    cases hm : materialNeeded i <;> simp_all
  exact exec_completes_of_issueCheck ((issueCheck_encode hwf hcap).trans htag)

theorem exec_roundsGift {s : State} {start count : Byte} {a n : Nat} (hstart : start.toNat = a) (hcount : count.toNat = n)
    (hrange : a + n ≤ 40) (hpresent : s.present .gift = true) (hlayout : s.layoutIs .gift = true)
    (hmaterial : s.materialIs .gift = true) :
    exec (.roundsGift start count) s = .next { s with w := giftRounds s.mkey a n s.w, done := true, pend := none } := by
  subst hstart hcount
  exact exec_completes_of_tags (decide_eq_true hrange) rfl hpresent hlayout hmaterial

theorem exec_roundsSkinny {s : State} {start count : Byte} {a n : Nat} (hstart : start.toNat = a)
    (hcount : count.toNat = n) (hrange : a + n ≤ 40) (hpresent : s.present .skinny = true)
    (hlayout : s.layoutIs .skinny = true) (hmaterial : s.materialIs .skinny = true) :
    exec (.roundsSkinny start count) s =
      .next { s with w := skinnyRounds (skinnyTweakeyOf s.key s.mkey) a n s.w, done := true, pend := none } := by
  subst hstart hcount
  exact exec_completes_of_tags (decide_eq_true hrange) rfl hpresent hlayout hmaterial

theorem exec_roundsJambu {s : State} {count : Byte} {n : Nat} (hcount : count.toNat = n)
    (hpresent : s.present .jambu = true) (hlayout : s.layoutIs .jambu = true) (hmaterial : s.materialIs .jambu = true) :
    exec (.roundsJambu count) s = .next { s with w := jambuRounds s.mkey n s.w, done := true, pend := none } := by
  subst hcount
  exact exec_completes_of_tags rfl rfl hpresent hlayout hmaterial

/-! ### Loading what was stored -/

/-- `load` reads back from the word file what `store` lays over its first `n` words. -/
structure LoadsStored {α : Type} (n : Nat) (load : Words → α) (store : α → List Word) : Prop where
  length : ∀ x, (store x).length = n
  load_overlay : ∀ w x, load (overlay w (store x)) = x

/-- Of two lists of one length laid over a word file only the second is seen. -/
theorem overlay_overlay (w : Words) {us vs : List Word} (h : us.length = vs.length) :
    overlay (overlay w us) vs = overlay w vs := by
  refine Vector.ext fun k hk => ?_
  rw [overlay_getElem _ vs k hk, overlay_getElem _ vs k hk]
  rcases Nat.lt_or_ge k vs.length with hin | hout
  · rw [List.getElem?_eq_getElem hin, Option.getD_some, Option.getD_some]
  · rw [List.getElem?_eq_none hout, overlay_outside w us k hk (by omega)]

/-- The first words of an overlaid file are those laid over it. -/
theorem ofFn_overlay {n : Nat} (hn : n ≤ 16) (w : Words) {vs : List Word} (hlength : vs.length = n) :
    (List.ofFn fun k : Fin n => (overlay w vs)[k.val]) = vs :=
  List.ext_getElem (by simp [hlength]) fun k hk hv => by
    rw [List.getElem_ofFn, overlay_inside w vs k (by omega) hv]

theorem pack128_extractLsb' (r : BitVec 128) :
    pack128 (r.extractLsb' 0 32) (r.extractLsb' 32 32) (r.extractLsb' 64 32) (r.extractLsb' 96 32) = r := by
  refine BitVec.eq_of_toNat_eq ?_
  simp only [toNat_pack128, BitVec.extractLsb'_toNat, Nat.shiftRight_eq_div_pow]
  omega

theorem loadsStored_gift : LoadsStored 4 giftLoad giftStore := ⟨fun _ => rfl, fun _ _ => rfl⟩

theorem loadsStored_jambu : LoadsStored 4 jambuLoad unpack128 := ⟨fun _ => rfl, fun _ r => pack128_extractLsb' r⟩

theorem skinnyStore_length (cells : SkinnyCells) : (skinnyStore cells).length = 4 := by
  rw [skinnyStore, le32Words_length, Vector.length_toList]

theorem loadsStored_skinny : LoadsStored 4 skinnyLoad skinnyStore := by
  refine ⟨skinnyStore_length, fun w cells => ?_⟩
  have hbytes : (skinnyLoad (overlay w (skinnyStore cells))).toList =
      le32Bytes (List.ofFn fun k : Fin 4 => (overlay w (skinnyStore cells))[k.val]) := rfl
  rw [← Vector.toList_inj, hbytes, ofFn_overlay (by decide) w (skinnyStore_length cells), skinnyStore,
    le32Bytes_le32Words _ (by rw [Vector.length_toList])]

/-! ### Rounds, one after the other -/

/-- The word file after rounds start … start+count−1 of a state that `load` takes from it and `store` lays over it. -/
def roundsOn {α : Type} (load : Words → α) (store : α → List Word) (round : Nat → α → α) (start count : Nat)
    (w : Words) : Words := overlay w (store (roundsFrom round start count (load w)))

/-- Rounds a … a+m−1, stored and loaded again, then rounds a+m … a+m+n−1, are rounds a … a+m+n−1. -/
theorem roundsOn_add {α : Type} {size : Nat} {load : Words → α} {store : α → List Word}
    (h : LoadsStored size load store) (round : Nat → α → α) (a m n : Nat) (w : Words) :
    roundsOn load store round a (m + n) w = roundsOn load store round (a + m) n (roundsOn load store round a m w) := by
  simp only [roundsOn]
  rw [h.load_overlay, ← roundsFrom_add, overlay_overlay w (by rw [h.length, h.length])]

/-- Where round r + k is round r, rounds from a + k are rounds from a. -/
theorem roundsFrom_add_period {α : Type} {round : Nat → α → α} {k : Nat} (hperiod : ∀ r, round (r + k) = round r)
    (a n : Nat) (x : α) : roundsFrom round (a + k) n x = roundsFrom round a n x := by
  induction n generalizing a x with
  | zero => rfl
  | succ n ih => rw [roundsFrom, roundsFrom, hperiod, Nat.add_right_comm, ih]

/-- Rounds that compose and of which each meets its relation run as `RunsRounds` says. -/
theorem runsRounds_of_add {rounds : Nat → Nat → Words → Words} {relation : Nat → Words → Words → Prop}
    {start count : Nat} (w : Words) (hzero : rounds start 0 w = w)
    (hadd : ∀ n, rounds start (n + 1) w = rounds (start + n) 1 (rounds start n w))
    (hround : ∀ r v, r < start + count → relation r v (rounds r 1 v)) :
    RunsRounds relation start count w (rounds start count w) := by
  refine ⟨fun r => rounds start (r - start) w, ?_, fun r hlow hhigh => ?_, ?_⟩
  · simpa using hzero
  · simp only [Nat.succ_sub hlow, hadd, Nat.add_sub_cancel' hlow]
    exact hround r _ hhigh
  · simp

theorem giftRounds_add (m : Material) (a p q : Nat) (w : Words) :
    giftRounds m a (p + q) w = giftRounds m (a + p) q (giftRounds m a p w) :=
  roundsOn_add loadsStored_gift (giftRound (giftKeyOf m)) a p q w

/-- The tweakey that the loop carries is TK_at of the round's index (43_skinny.md R190, R198). -/
theorem roundsFrom_skinnyPass (tk : SkinnyTweakey) (start count : Nat) (cells : SkinnyCells) :
    roundsFrom skinnyPass start count (cells, skinnyTweakeyAt tk start) =
      (roundsFrom (fun r => skinnyRound (skinnyTweakeyAt tk r) r) start count cells,
        skinnyTweakeyAt tk (start + count)) := by
  induction count generalizing start cells with
  | zero => rfl
  | succ count ih =>
    rw [show start + (count + 1) = start + 1 + count by omega]
    exact ih (start + 1) (skinnyRound (skinnyTweakeyAt tk start) start cells)

theorem skinnyRounds_eq_roundsOn (tk : SkinnyTweakey) (start count : Nat) (w : Words) :
    skinnyRounds tk start count w =
      roundsOn skinnyLoad skinnyStore (fun r => skinnyRound (skinnyTweakeyAt tk r) r) start count w := by
  rw [skinnyRounds, roundsFrom_skinnyPass, roundsOn]

theorem skinnyRounds_add (tk : SkinnyTweakey) (a p q : Nat) (w : Words) :
    skinnyRounds tk a (p + q) w = skinnyRounds tk (a + p) q (skinnyRounds tk a p w) := by
  simp only [skinnyRounds_eq_roundsOn]
  exact roundsOn_add loadsStored_skinny _ a p q w

/-- The key bit of a step repeats after 128 steps, so after a block (47_jambu.md R280, R282). -/
theorem jambuKeyedStep_add_block (key : BitVec 128) (block t : Nat) :
    jambuKeyedStep key (t + 128 * block) = jambuKeyedStep key t := by
  funext r
  rw [jambuKeyedStep, jambuKeyedStep, Nat.add_mul_mod_self_left]

theorem jambuRounds_add (m : Material) (p q : Nat) (w : Words) :
    jambuRounds m (p + q) w = jambuRounds m q (jambuRounds m p w) := by
  have hadd := roundsOn_add loadsStored_jambu (jambuKeyedStep (jambuKeyOf m)) 0 (128 * p) (128 * q) w
  rw [← Nat.mul_add] at hadd
  refine hadd.trans ?_
  rw [roundsOn, roundsFrom_add_period (jambuKeyedStep_add_block (jambuKeyOf m) p)]
  rfl

/-- Settles O52: what the first command stores, the second loads, under the same material and `KEY`; the two rounds'
sequences joined are the third's. -/
theorem keyedRoundsCompose : Obligations.KeyedRoundsCompose := by
  intro s a b c hab hbc byte
  have htoNat : ∀ n, n ≤ 255 → (byte n).toNat = n := fun n hn => by
    rw [BitVec.toNat_ofNat, Nat.mod_eq_of_lt (by omega)]
  have hsplit : c - a = (b - a) + (c - b) := by omega
  have hreach : a + (b - a) = b := by omega
  refine ⟨fun hc hp hl hm => ?gift, fun hc hp hl hm => ?skinny, fun hc hp hl hm => ?jambu⟩
  case gift =>
    have hjoin := giftRounds_add s.mkey a (b - a) (c - b) s.w
    rw [hreach, ← hsplit] at hjoin
    refine ⟨_, exec_roundsGift (htoNat a (by omega)) (htoNat (b - a) (by omega)) (by omega) hp hl hm, ?_⟩
    refine Eq.trans (exec_roundsGift (htoNat b (by omega)) (htoNat (c - b) (by omega)) (by omega) hp hl hm) ?_
    rw [exec_roundsGift (htoNat a (by omega)) (htoNat (c - a) (by omega)) (by omega) hp hl hm, hjoin]
  case skinny =>
    have hjoin := skinnyRounds_add (skinnyTweakeyOf s.key s.mkey) a (b - a) (c - b) s.w
    rw [hreach, ← hsplit] at hjoin
    refine ⟨_, exec_roundsSkinny (htoNat a (by omega)) (htoNat (b - a) (by omega)) (by omega) hp hl hm, ?_⟩
    refine Eq.trans (exec_roundsSkinny (htoNat b (by omega)) (htoNat (c - b) (by omega)) (by omega) hp hl hm) ?_
    rw [exec_roundsSkinny (htoNat a (by omega)) (htoNat (c - a) (by omega)) (by omega) hp hl hm, hjoin]
    rfl
  case jambu =>
    have hjoin := jambuRounds_add s.mkey a (c - a) s.w
    rw [Nat.add_sub_cancel' (hab.trans hbc)] at hjoin
    refine ⟨_, exec_roundsJambu (htoNat a (by omega)) hp hl hm, ?_⟩
    refine Eq.trans (exec_roundsJambu (htoNat (c - a) (by omega)) hp hl hm) ?_
    rw [exec_roundsJambu (htoNat c hc) hp hl hm, hjoin]

end Sys2Proof.Machine

/-! ## GIFT, bit by bit (42_gift.md R160 to R167) -/

namespace Sys2Proof.Machine

/-! ### Segments -/

/-- Segment `Sj` (42_gift.md R160); the number of a segment is below 4. -/
def GiftState.segment (x : GiftState) : Nat → Word
  | 0 => x.s0
  | 1 => x.s1
  | 2 => x.s2
  | _ => x.s3

theorem overlay_giftStore_getElem (w : Words) (x : GiftState) {j : Nat} (hj : j < 4) :
    (overlay w (giftStore x))[j] = x.segment j := by
  match j with
  | 0 | 1 | 2 | 3 => rfl

/-! ### SubCells by the table of GS (42_gift.md R162) -/

/-- The circuit of R162 works on the four bits of a nibble apart from the others, and on its 16 values it is the table. -/
theorem giftSubCells_getLsbD (w : Words) {j i : Nat} (hj : j < 4) (hi : i < 32) :
    ((giftSubCells (giftLoad w)).segment j).getLsbD i = bitOf (giftSboxTable.getD (giftNibble w i) 0) j := by
  match j with
  | 0 | 1 | 2 | 3 =>
    simp only [giftSubCells, giftLoad, GiftState.segment, giftNibble, BitVec.getLsbD_xor, BitVec.getLsbD_and,
      BitVec.getLsbD_or, BitVec.getLsbD_not, hi, decide_true, Bool.true_and]
    generalize w[0].getLsbD i = b0, w[1].getLsbD i = b1, w[2].getLsbD i = b2, w[3].getLsbD i = b3
    revert b0 b1 b2 b3
    decide

/-! ### PermBits by its formula (42_gift.md R163) -/

/-- The bits of an OR over a list of words. -/
theorem foldl_or_getLsbD {n : Nat} (f : Nat → BitVec n) (l : List Nat) (acc : BitVec n) (b : Nat) :
    (l.foldl (fun a i => a ||| f i) acc).getLsbD b = (acc.getLsbD b || l.any fun i => (f i).getLsbD b) := by
  induction l generalizing acc with
  | nil => simp
  | cons i l ih => rw [List.foldl_cons, ih, BitVec.getLsbD_or, List.any_cons, Bool.or_assoc]

theorem giftBitTarget_lt {j i : Nat} (hi : i < 32) : giftBitTarget j i < 32 := by
  unfold giftBitTarget
  omega

/-- Within a segment no two bits move to one place. -/
theorem giftBitTarget_injective {j i k : Nat} (hj : j < 4) (hi : i < 32) (hk : k < 32)
    (h : giftBitTarget j k = giftBitTarget j i) : k = i := by
  unfold giftBitTarget at h
  have hquotient : k / 4 = i / 4 := by omega
  have hremainder : (j + 4 - k % 4) % 4 = (j + 4 - i % 4) % 4 := by omega
  omega

/-- A bit shifted to place t is at t and nowhere else. -/
theorem getLsbD_ofBool_shiftLeft (b : Bool) {t p : Nat} (hp : p < 32) :
    ((BitVec.ofBool b).setWidth 32 <<< t).getLsbD p = (b && decide (t = p)) := by
  rcases Nat.lt_trichotomy t p with h | rfl | h
  · simp [BitVec.getLsbD_shiftLeft, BitVec.getLsbD_ofBool, h.ne, Nat.sub_ne_zero_of_lt h]
  · simp [hp]
  · simp [BitVec.getLsbD_shiftLeft, h, h.ne']

theorem giftPermSegment_getLsbD (v : Word) {j i : Nat} (hj : j < 4) (hi : i < 32) :
    (giftPermSegment j v).getLsbD (giftBitTarget j i) = v.getLsbD i := by
  rw [giftPermSegment, foldl_or_getLsbD, BitVec.getLsbD_zero, Bool.false_or, Bool.eq_iff_iff, List.any_eq_true]
  simp only [getLsbD_ofBool_shiftLeft _ (giftBitTarget_lt hi), List.mem_range, Bool.and_eq_true, decide_eq_true_eq]
  constructor
  · rintro ⟨k, hk, hbit, htarget⟩
    rwa [← giftBitTarget_injective hj hi hk htarget]
  · exact fun hbit => ⟨i, hi, hbit, rfl⟩

theorem giftPermBits_segment (x : GiftState) {j : Nat} (hj : j < 4) :
    (giftPermBits x).segment j = giftPermSegment j (x.segment j) := by
  match j with
  | 0 | 1 | 2 | 3 => rfl

/-! ### AddRoundKey (42_gift.md R164 to R167) -/

/-- κ_i of a key state (42_gift.md R164); the number of a key word is below 8. -/
def GiftKey.word (k : GiftKey) : Nat → Half
  | 0 => k.k0
  | 1 => k.k1
  | 2 => k.k2
  | 3 => k.k3
  | 4 => k.k4
  | 5 => k.k5
  | 6 => k.k6
  | _ => k.k7

theorem giftKeys_giftKeyAt (m : Material) : GiftKeys m fun r => (giftKeyAt (giftKeyOf m) r).word := by
  refine ⟨fun i hi => ?_, fun r => ⟨rfl, rfl, fun i hi => ?_⟩⟩
  · match i with
    | 0 | 1 | 2 | 3 | 4 | 5 | 6 | 7 => rfl
  · match i with
    | 0 | 1 | 2 | 3 | 4 | 5 => rfl

/-- The constants that the generator gives are those R167 lists. -/
theorem constantTable_getD {r : Nat} (hr : r < 40) : constantTable.getD r 0 = (giftConstant r).toNat := by
  obtain ⟨-, htable, -⟩ := fixedTablesAgree
  rw [← htable]
  simp [hr]

theorem giftAddRoundKey_segment (k : GiftKey) (x : GiftState) {r j : Nat} (hr : r < 40) (hj : j < 4) :
    (giftAddRoundKey k r x).segment j =
      x.segment j ^^^ giftAdded (giftKeyAt k r).u (giftKeyAt k r).v (constantTable.getD r 0) j := by
  match j with
  | 0 => exact (BitVec.xor_zero).symm
  | 1 | 2 => rfl
  | 3 =>
    rw [constantTable_getD hr, giftAdded, ← BitVec.xor_assoc, BitVec.ofNat_toNat]
    rfl

/-! ### Rounds -/

theorem giftRounds_one_giftRound (m : Material) {r : Nat} (hr : r < 40) (w : Words) :
    GiftRound (giftKeyAt (giftKeyOf m) r).u (giftKeyAt (giftKeyOf m) r).v (constantTable.getD r 0) w
      (giftRounds m r 1 w) := by
  refine ⟨sameFrom_giftRounds m r 1 w, fun j i hj hi => ?_⟩
  have hword : (giftRounds m r 1 w)[j] = (giftRound (giftKeyOf m) r (giftLoad w)).segment j :=
    overlay_giftStore_getElem w _ hj
  rw [hword, giftRound, giftAddRoundKey_segment _ _ hr hj, giftPermBits_segment _ hj, BitVec.getLsbD_xor,
    ← giftSubCells_getLsbD w hj hi, ← giftPermSegment_getLsbD _ hj hi, giftBitTarget]

/-- Settles O42: words are stored and loaded again from round to round, and each round is that of R161 to R167 on bits. -/
theorem roundsGiftRunsItsRounds : Obligations.RoundsGiftRunsItsRounds := by
  intro s start count hpresent hrange hlayout hmaterial
  refine ⟨fun r => (giftKeyAt (giftKeyOf s.mkey) r).word, giftRounds s.mkey start.toNat count.toNat s.w,
    giftKeys_giftKeyAt s.mkey, ?_, exec_roundsGift rfl rfl hrange hpresent hlayout hmaterial⟩
  exact runsRounds_of_add s.w (giftRounds_zero _ _ _) (fun n => giftRounds_add s.mkey _ n 1 s.w)
    fun r w hr => giftRounds_one_giftRound s.mkey (by omega) w

end Sys2Proof.Machine

/-! ## SKINNY, cell by cell (43_skinny.md R190 to R198) -/

namespace Sys2Proof.Machine

/-! ### Permutations of the cells (43_skinny.md R196, R198) -/

theorem skinnyPermute_getElem? {table : List Nat} (cells : SkinnyCells) {i : Nat} (hi : i < 16)
    (htable : table.getD i 0 < 16) : (skinnyPermute table cells)[i]? = cells[table.getD i 0]? := by
  rw [Vector.getElem?_eq_getElem hi, Vector.getElem?_eq_getElem htable, skinnyPermute, tabulate_getElem,
    Vector.getElem?_eq_getElem htable, Option.getD_some]

theorem skinnyTweakeyTable_getD_lt {i : Nat} (hi : i < 16) : skinnyTweakeyTable.getD i 0 < 16 := by
  revert i
  decide

/-- A cell after n uses of PT is the cell that the table leads to in n steps. -/
theorem skinnyPermute_iterate_getElem? (cells : SkinnyCells) (n : Nat) {i : Nat} (hi : i < 16) :
    ((skinnyPermute skinnyTweakeyTable)^[n] cells)[i]? = cells[(skinnyTweakeyTable.getD · 0)^[n] i]? := by
  induction n generalizing i with
  | zero => rfl
  | succ n ih =>
    have hstep := skinnyTweakeyTable_getD_lt hi
    rw [Function.iterate_succ_apply', skinnyPermute_getElem? _ hi hstep, ih hstep, Function.iterate_succ_apply]

theorem skinnyTweakeyTable_iterate_sixteen {i : Nat} (hi : i < 16) : (skinnyTweakeyTable.getD · 0)^[16] i = i := by
  revert i
  decide

theorem skinnyPermute_iterate_sixteen (cells : SkinnyCells) : (skinnyPermute skinnyTweakeyTable)^[16] cells = cells := by
  refine Vector.ext fun i hi => Option.some_inj.mp ?_
  rw [← Vector.getElem?_eq_getElem hi, ← Vector.getElem?_eq_getElem hi, skinnyPermute_iterate_getElem? cells 16 hi,
    skinnyTweakeyTable_iterate_sixteen hi]

theorem skinnyTweakeyAt_add_t1 (tk : SkinnyTweakey) (r n : Nat) :
    (skinnyTweakeyAt tk (r + n)).t1 = (skinnyPermute skinnyTweakeyTable)^[n] (skinnyTweakeyAt tk r).t1 := by
  induction n with
  | zero => rfl
  | succ n ih => rw [Function.iterate_succ_apply', ← ih]; rfl

/-- Settles O56: each round permutes T1 by PT, and PT leads every cell back to its place in 16 steps. -/
theorem skinnyTweakOneHasPeriodSixteen : Obligations.SkinnyTweakOneHasPeriodSixteen := fun tk r => by
  rw [skinnyTweakeyAt_add_t1, skinnyPermute_iterate_sixteen]

/-! ### The tweakey (43_skinny.md R192, R198) -/

/-- Cell i of part TKp (43_skinny.md R192); the number of a part is 1, 2 or 3. -/
def SkinnyTweakey.cell (tk : SkinnyTweakey) : Nat → Nat → Byte
  | 1, i => (tk.t1[i]?).getD 0#8
  | 2, i => (tk.t2[i]?).getD 0#8
  | _, i => (tk.t3[i]?).getD 0#8

theorem skinnyLfsr2_getLsbD (x : Byte) {b : Nat} (hb : b < 8) :
    (skinnyLfsr2 x).getLsbD b = if b = 0 then x.getLsbD 7 ^^ x.getLsbD 5 else x.getLsbD (b - 1) := by
  match b with
  | 0 | 1 | 2 | 3 | 4 | 5 | 6 | 7 => simp [skinnyLfsr2]

theorem skinnyLfsr3_getLsbD (x : Byte) {b : Nat} (hb : b < 8) :
    (skinnyLfsr3 x).getLsbD b = if b = 7 then x.getLsbD 0 ^^ x.getLsbD 6 else x.getLsbD (b + 1) := by
  match b with
  | 0 | 1 | 2 | 3 | 4 | 5 | 6 | 7 => simp [skinnyLfsr3]

theorem skinnyOnTopRows_permute_getElem? (f : Byte → Byte) (cells : SkinnyCells) {i : Nat} (hi : i < 16) :
    (skinnyOnTopRows f (skinnyPermute skinnyTweakeyTable cells))[i]?.getD 0#8 =
      if i < 8 then f (cells[skinnyTweakeyTable.getD i 0]?.getD 0#8)
      else cells[skinnyTweakeyTable.getD i 0]?.getD 0#8 := by
  rw [← skinnyPermute_getElem? cells hi (skinnyTweakeyTable_getD_lt hi)]
  simp [skinnyOnTopRows, hi]

section update
variable (tk : SkinnyTweakey) {i : Nat} (hi : i < 16)
include hi

theorem skinnyTweakeyUpdate_cell_one :
    (skinnyTweakeyUpdate tk).cell 1 i = tk.cell 1 (tweakeyOrder.getD i 0) :=
  congrArg (·.getD 0#8) (skinnyPermute_getElem? tk.t1 hi (skinnyTweakeyTable_getD_lt hi))

theorem skinnyTweakeyUpdate_cell_two :
    (skinnyTweakeyUpdate tk).cell 2 i =
      if i < 8 then skinnyLfsr2 (tk.cell 2 (tweakeyOrder.getD i 0)) else tk.cell 2 (tweakeyOrder.getD i 0) :=
  skinnyOnTopRows_permute_getElem? skinnyLfsr2 tk.t2 hi

theorem skinnyTweakeyUpdate_cell_three :
    (skinnyTweakeyUpdate tk).cell 3 i =
      if i < 8 then skinnyLfsr3 (tk.cell 3 (tweakeyOrder.getD i 0)) else tk.cell 3 (tweakeyOrder.getD i 0) :=
  skinnyOnTopRows_permute_getElem? skinnyLfsr3 tk.t3 hi

end update

theorem skinnyTweakeys_skinnyTweakeyAt (key : Nat → Byte) (m : Material) :
    SkinnyTweakeys key m fun r => (skinnyTweakeyAt (skinnyTweakeyOf key m) r).cell := by
  refine ⟨fun i hi => ?load,
    fun r i hi => ⟨skinnyTweakeyUpdate_cell_one _ hi, fun hbottom => ?bottom, fun htop b hb => ?top⟩⟩
  case load => simp [skinnyTweakeyAt, skinnyTweakeyOf, SkinnyTweakey.cell, hi]
  all_goals simp only [skinnyTweakeyAt, skinnyTweakeyUpdate_cell_two _ hi, skinnyTweakeyUpdate_cell_three _ hi]
  case bottom => simp only [if_neg (Nat.not_lt.mpr hbottom), and_self]
  case top => simp only [if_pos htop, skinnyLfsr2_getLsbD _ hb, skinnyLfsr3_getLsbD _ hb, and_self]

/-! ### One round (43_skinny.md R191, R193 to R197) -/

theorem skinnyLoad_getElem (w : Words) {i : Nat} (hi : i < 16) : (skinnyLoad w)[i] = skinnyCell w i := by
  rw [skinnyLoad, tabulate_getElem, skinnyCell, Vector.getElem?_eq_getElem (by omega), Option.getD_some]

theorem skinnyCell_overlay (w : Words) (cells : SkinnyCells) {i : Nat} (hi : i < 16) :
    skinnyCell (overlay w (skinnyStore cells)) i = cells[i] := by
  rw [← skinnyLoad_getElem _ hi]
  simp only [loadsStored_skinny.load_overlay]

/-- The constants that the generator gives are those R194 lists, cut into the low four bits and the high two. -/
theorem skinnyConstant_extractLsb' {r : Nat} (hr : r < 40) :
    ((skinnyConstant r).extractLsb' 0 4).setWidth 8 = BitVec.ofNat 8 (constantTable.getD r 0 % 16) ∧
      ((skinnyConstant r).extractLsb' 4 2).setWidth 8 = BitVec.ofNat 8 (constantTable.getD r 0 / 16) := by
  have htable : constantTable.getD r 0 = (skinnyConstant r).toNat := constantTable_getD hr
  rw [htable]
  generalize skinnyConstant r = c
  revert c
  decide

theorem skinnyAddConstants_getElem (cells : SkinnyCells) {r i : Nat} (hr : r < 40) (hi : i < 16) :
    (skinnyAddConstants r cells)[i] =
      cells[i] ^^^ (if i = 0 then BitVec.ofNat 8 (constantTable.getD r 0 % 16)
        else if i = 4 then BitVec.ofNat 8 (constantTable.getD r 0 / 16)
        else if i = 8 then 0x02#8
        else 0#8) := by
  obtain ⟨hlow, hhigh⟩ := skinnyConstant_extractLsb' hr
  rw [skinnyAddConstants, tabulate_getElem, hlow, hhigh]
  simp only [Fin.getElem_fin]
  split_ifs <;> simp

theorem skinnyAddTweakey_getElem (tk : SkinnyTweakey) (cells : SkinnyCells) {i : Nat} (hi : i < 16) :
    (skinnyAddTweakey tk cells)[i] =
      cells[i] ^^^ (if i < 8 then tk.cell 1 i ^^^ tk.cell 2 i ^^^ tk.cell 3 i else 0#8) := by
  rw [skinnyAddTweakey, tabulate_getElem]
  split_ifs <;> simp [SkinnyTweakey.cell, hi, BitVec.xor_assoc]

/-- The cells of a word file before ShiftRows of round r. -/
def skinnyKeyedCells (tk : SkinnyTweakey) (r : Nat) (w : Words) : SkinnyCells :=
  skinnyAddTweakey tk (skinnyAddConstants r (skinnySubCells (skinnyLoad w)))

theorem skinnyKeyedCells_getElem (tk : SkinnyTweakey) (w : Words) {r row col : Nat} (hr : r < 40) (hrow : row < 4)
    (hcol : col < 4) :
    (skinnyKeyedCells tk r w)[4 * row + col] = skinnyKeyed tk.cell (constantTable.getD r 0) w row col := by
  have htop : 4 * row + col < 8 ↔ row < 2 := by omega
  have hbox : (skinnySubCells (skinnyLoad w))[4 * row + col] = skinnySbox (skinnyCell w (4 * row + col)) := by
    rw [skinnySubCells, tabulate_getElem, Fin.getElem_fin, skinnyLoad_getElem]
  simp only [skinnyKeyedCells, skinnyAddTweakey_getElem, skinnyAddConstants_getElem _ hr, hbox, htop, skinnyKeyed]

theorem skinnyShiftRows_getElem (cells : SkinnyCells) {row col : Nat} (hrow : row < 4) (hcol : col < 4) :
    (skinnyShiftRows cells)[4 * row + col] = cells[4 * row + (col + 4 - row) % 4] := by
  have htable : ∀ row < 4, ∀ col < 4, skinnyShiftTable.getD (4 * row + col) 0 = 4 * row + (col + 4 - row) % 4 := by
    decide
  refine Option.some_inj.mp ?_
  rw [← Vector.getElem?_eq_getElem (by omega), ← Vector.getElem?_eq_getElem (by omega), skinnyShiftRows,
    skinnyPermute_getElem? cells (by omega) (by rw [htable row hrow col hcol]; omega), htable row hrow col hcol]

/-- A column of the mixed cells; row j of the cells stands from 4j on. -/
theorem skinnyMixColumns_getElem (cells : SkinnyCells) {col : Nat} (hcol : col < 4) :
    (skinnyMixColumns cells)[col] = cells[4 * 0 + col] ^^^ cells[4 * 2 + col] ^^^ cells[4 * 3 + col] ∧
      (skinnyMixColumns cells)[4 + col] = cells[4 * 0 + col] ∧
      (skinnyMixColumns cells)[8 + col] = cells[4 * 1 + col] ^^^ cells[4 * 2 + col] ∧
      (skinnyMixColumns cells)[12 + col] = cells[4 * 0 + col] ^^^ cells[4 * 2 + col] := by
  match col with
  | 0 | 1 | 2 | 3 => exact ⟨rfl, rfl, rfl, rfl⟩

theorem skinnyCell_skinnyRounds_one (tk : SkinnyTweakey) (r : Nat) (w : Words) {i : Nat} (hi : i < 16) :
    skinnyCell (skinnyRounds tk r 1 w) i =
      (skinnyMixColumns (skinnyShiftRows (skinnyKeyedCells (skinnyTweakeyAt tk r) r w)))[i] :=
  skinnyCell_overlay w _ hi

theorem skinnyRounds_one_skinnyRound (tk : SkinnyTweakey) {r : Nat} (hr : r < 40) (w : Words) :
    SkinnyRound (skinnyTweakeyAt tk r).cell (constantTable.getD r 0) w (skinnyRounds tk r 1 w) := by
  refine ⟨sameFrom_skinnyRounds tk r 1 w, fun col hcol => ?_⟩
  have hmix := skinnyMixColumns_getElem (skinnyShiftRows (skinnyKeyedCells (skinnyTweakeyAt tk r) r w)) hcol
  have hrows : ∀ row, (hrow : row < 4) →
      (skinnyShiftRows (skinnyKeyedCells (skinnyTweakeyAt tk r) r w))[4 * row + col] =
        skinnyKeyed (skinnyTweakeyAt tk r).cell (constantTable.getD r 0) w row ((col + 4 - row) % 4) :=
    fun row hrow => by
      rw [skinnyShiftRows_getElem _ hrow hcol, skinnyKeyedCells_getElem _ w hr hrow (Nat.mod_lt _ (by decide))]
  rw [hrows 0 (by decide), hrows 1 (by decide), hrows 2 (by decide), hrows 3 (by decide)] at hmix
  simpa (disch := omega) only [skinnyCell_skinnyRounds_one] using hmix

/-- Settles O43: cells are stored and loaded again from round to round, and each round is that of R191 to R197 under the
tweakey of its index. -/
theorem roundsSkinnyRunsItsRounds : Obligations.RoundsSkinnyRunsItsRounds := by
  intro s start count hpresent hrange hlayout hmaterial
  refine ⟨fun r => (skinnyTweakeyAt (skinnyTweakeyOf s.key s.mkey) r).cell,
    skinnyRounds (skinnyTweakeyOf s.key s.mkey) start.toNat count.toNat s.w,
    skinnyTweakeys_skinnyTweakeyAt s.key s.mkey, ?_, exec_roundsSkinny rfl rfl hrange hpresent hlayout hmaterial⟩
  exact runsRounds_of_add s.w (skinnyRounds_zero _ _ _) (fun n => skinnyRounds_add _ _ n 1 s.w)
    fun r w hr => skinnyRounds_one_skinnyRound _ (by omega) w

end Sys2Proof.Machine

/-! ## The unkeyed permutations on the word file (44_ascon.md R225; 46_sparkle.md R267; 48_photon.md R307;
49_xoodoo.md R327) -/

namespace Sys2Proof.Machine

/-! ### Completion -/

/-- In a state that has the primitive built in and its layout, the `ROUNDS` form of an unkeyed permutation runs its rounds
on the word file and completes, up to round `limit`. -/
def CompletesRounds (p : Prim) (limit : Nat) (command : Byte → Byte → Instr) (rounds : Nat → Nat → Words → Words) : Prop :=
  ∀ (s : State) (start count : Byte), start.toNat + count.toNat ≤ limit → s.present p = true → s.layoutIs p = true →
    exec (command start count) s =
      .next { s with w := rounds start.toNat count.toNat s.w, done := true, pend := none }

theorem completesRounds_ascon : CompletesRounds .ascon 12 .roundsAscon asconRounds :=
  fun _ _ _ hrange hpresent hlayout => exec_completes_of_tags (decide_eq_true hrange) rfl hpresent hlayout rfl

theorem completesRounds_photon : CompletesRounds .photon 12 .roundsPhoton photonRounds :=
  fun _ _ _ hrange hpresent hlayout => exec_completes_of_tags (decide_eq_true hrange) rfl hpresent hlayout rfl

theorem completesRounds_xoodoo : CompletesRounds .xoodoo 12 .roundsXoodoo xoodooRounds :=
  fun _ _ _ hrange hpresent hlayout => exec_completes_of_tags (decide_eq_true hrange) rfl hpresent hlayout rfl

/-- SPARKLE checks no range (46_sparkle.md R260): any limit will do. -/
theorem completesRounds_sparkle (limit : Nat) (b : Branches) :
    CompletesRounds .sparkle limit (.roundsSparkle · · b) (sparkleRounds b.number) :=
  fun _ _ _ _ hpresent hlayout => exec_completes_of_tags rfl rfl hpresent hlayout rfl

/-! ### Loading what was stored -/

theorem highHalf_append_lowHalf (x : DWord) : x.extractLsb' 32 32 ++ x.extractLsb' 0 32 = x :=
  (BitVec.extractLsb'_append_extractLsb'_eq_extractLsb' (Nat.zero_add 32).symm).trans BitVec.extractLsb'_eq_self

theorem loadsStored_ascon : LoadsStored 10 asconLoad asconStore := by
  refine ⟨fun _ => rfl, fun w x => ?_⟩
  have hload : asconLoad (overlay w (asconStore x)) =
      ⟨x.x0.extractLsb' 32 32 ++ x.x0.extractLsb' 0 32, x.x1.extractLsb' 32 32 ++ x.x1.extractLsb' 0 32,
        x.x2.extractLsb' 32 32 ++ x.x2.extractLsb' 0 32, x.x3.extractLsb' 32 32 ++ x.x3.extractLsb' 0 32,
        x.x4.extractLsb' 32 32 ++ x.x4.extractLsb' 0 32⟩ := rfl
  rw [hload]
  simp only [highHalf_append_lowHalf]

theorem photonStore_length (x : PhotonCells) : (photonStore x).length = 8 := by simp [photonStore]

/-- Cell (r, c) stands in bits 4c to 4c+3 of the word of row r (48_photon.md R300). -/
theorem photonRowWord_extractLsb' (x : PhotonCells) (r : Nat) {c : Nat} (hc : c < 8) :
    (photonRowWord x r).extractLsb' (4 * c) 4 = photonCell x r c := by
  refine BitVec.eq_of_toNat_eq ?_
  simp only [photonRowWord, BitVec.extractLsb'_toNat, toNat_append_eq_add, Nat.shiftRight_eq_div_pow]
  match c with
  | 0 | 1 | 2 | 3 | 4 | 5 | 6 | 7 => omega

theorem loadsStored_photon : LoadsStored 8 photonLoad photonStore := by
  refine ⟨photonStore_length, fun w x => Vector.ext fun n hn => ?_⟩
  have hrow : (overlay w (photonStore x))[n / 8] = photonRowWord x (n / 8) := by
    rw [overlay_inside w _ (n / 8) (by omega) (by rw [photonStore_length]; omega)]
    simp [photonStore]
  rw [photonLoad, tabulate_getElem, hrow, photonRowWord_extractLsb' x _ (Nat.mod_lt n (by decide)), photonCell,
    Nat.div_add_mod, Vector.getElem?_eq_getElem hn, Option.getD_some]

theorem loadsStored_xoodoo : LoadsStored 12 xoodooLoad (fun a => a.toList) := by
  refine ⟨fun a => a.length_toList, fun w a => Vector.toList_inj.mp ?_⟩
  rw [xoodooLoad_toList, ofFn_overlay (by decide) w a.length_toList]

theorem eq_tabulate {α : Type} {n : Nat} (v : Vector α n) : v = tabulate n fun i => v[i] :=
  Vector.ext fun i hi => by rw [tabulate_getElem, Fin.getElem_fin]

/-- Branch i stands in words 2i and 2i+1 (46_sparkle.md R260). -/
theorem sparkleStore_eq_ofFn (v : SparkleState) :
    sparkleStore v = List.ofFn fun k : Fin 16 => if k.val % 2 = 0 then v[k.val / 2].1 else v[k.val / 2].2 := by
  have hstore : ∀ f : Fin 8 → Word × Word, sparkleStore (tabulate 8 f) = List.ofFn fun k : Fin 16 =>
      if k.val % 2 = 0 then (f ⟨k.val / 2, by omega⟩).1 else (f ⟨k.val / 2, by omega⟩).2 := fun _ => rfl
  exact (congrArg sparkleStore (eq_tabulate v)).trans (hstore _)

theorem sparkleStore_length (v : SparkleState) : (sparkleStore v).length = 16 := by
  rw [sparkleStore_eq_ofFn, List.length_ofFn]

theorem sparkleStore_sparkleLoad (w : Words) : sparkleStore (sparkleLoad w) = List.ofFn fun k : Fin 16 => w[k.val] := rfl

theorem overlay_sparkleStore_getElem (w : Words) (v : SparkleState) {k : Nat} (hk : k < 16) :
    (overlay w (sparkleStore v))[k] = if k % 2 = 0 then v[k / 2].1 else v[k / 2].2 := by
  rw [overlay_inside w _ k hk (by rwa [sparkleStore_length])]
  simp only [sparkleStore_eq_ofFn, List.getElem_ofFn]

theorem loadsStored_sparkle : LoadsStored 16 sparkleLoad sparkleStore := by
  refine ⟨sparkleStore_length, fun w v => Vector.ext fun i hi => ?_⟩
  have hleft : (overlay w (sparkleStore v))[2 * i] = v[i].1 := by
    simp [overlay_sparkleStore_getElem w v (k := 2 * i) (by omega)]
  have hright : (overlay w (sparkleStore v))[2 * i + 1] = v[i].2 := by
    simp [overlay_sparkleStore_getElem w v (k := 2 * i + 1) (by omega), Nat.mul_add_div]
  rw [sparkleLoad, tabulate_getElem, hleft, hright]

/-! ### Rounds, one after the other -/

theorem asconRounds_add (a m n : Nat) (w : Words) :
    asconRounds a (m + n) w = asconRounds (a + m) n (asconRounds a m w) := roundsOn_add loadsStored_ascon asconRound a m n w

theorem photonRounds_add (a m n : Nat) (w : Words) :
    photonRounds a (m + n) w = photonRounds (a + m) n (photonRounds a m w) :=
  roundsOn_add loadsStored_photon photonRound a m n w

theorem xoodooRounds_add (a m n : Nat) (w : Words) :
    xoodooRounds a (m + n) w = xoodooRounds (a + m) n (xoodooRounds a m w) :=
  roundsOn_add loadsStored_xoodoo xoodooRound a m n w

theorem sparkleAddConstants_getElem_of_le (s : Nat) (v : SparkleState) {i : Nat} (hi : i < 8) (h : 2 ≤ i) :
    (sparkleAddConstants s v)[i] = v[i] := by
  rw [sparkleAddConstants, tabulate_getElem]
  exact (if_neg (by dsimp only; omega)).trans (if_neg (by dsimp only; omega))

theorem sparkleBoxes_getElem_of_le {B : Nat} (v : SparkleState) {i : Nat} (hi : i < 8) (h : B ≤ i) :
    (sparkleBoxes B v)[i] = v[i] := by
  rw [sparkleBoxes, tabulate_getElem]
  exact if_neg (Nat.not_lt.mpr h)

theorem sparkleLinear_getElem_of_le {B : Nat} (v : SparkleState) {i : Nat} (hi : i < 8) (h : B ≤ i) :
    (sparkleLinear B v)[i] = v[i] := by
  rw [sparkleLinear, tabulate_getElem]
  exact (if_neg (by dsimp only; omega)).trans (if_neg (Nat.not_lt.mpr h))

/-- A step on B branches leaves the others as they are (46_sparkle.md R260). -/
theorem sparkleStep_getElem_of_le {B : Nat} (hB : 2 ≤ B) (s : Nat) (v : SparkleState) {i : Nat} (hi : i < 8) (h : B ≤ i) :
    (sparkleStep B s v)[i] = v[i] := by
  rw [sparkleStep, sparkleLinear_getElem_of_le _ hi h, sparkleBoxes_getElem_of_le _ hi h,
    sparkleAddConstants_getElem_of_le s v hi (by omega)]

theorem roundsFrom_sparkleStep_getElem_of_le {B : Nat} (hB : 2 ≤ B) (start count : Nat) (v : SparkleState) {i : Nat}
    (hi : i < 8) (h : B ≤ i) : (roundsFrom (sparkleStep B) start count v)[i] = v[i] := by
  induction count generalizing start v with
  | zero => rfl
  | succ count ih => rw [roundsFrom, ih, sparkleStep_getElem_of_le hB start v hi h]

/-- Storing the first B branches is storing all eight: the others hold what was loaded. -/
theorem sparkleRounds_eq_roundsOn {B : Nat} (hB : 2 ≤ B) (start count : Nat) (w : Words) :
    sparkleRounds B start count w = roundsOn sparkleLoad sparkleStore (sparkleStep B) start count w := by
  refine Vector.ext fun k hk => ?_
  rw [sparkleRounds, roundsOn, overlay_getElem, List.getElem?_take]
  split
  next => rw [overlay_getElem]
  next hout =>
    rw [overlay_sparkleStore_getElem w _ hk, roundsFrom_sparkleStep_getElem_of_le hB start count _ (by omega) (by omega),
      ← overlay_sparkleStore_getElem w _ hk]
    rw [sparkleStore_sparkleLoad, overlay_ofFn (Nat.le_refl 16), Option.getD_none]

theorem two_le_branches_number (b : Branches) : 2 ≤ b.number := by cases b <;> decide

theorem sparkleRounds_add (b : Branches) (a m n : Nat) (w : Words) :
    sparkleRounds b.number a (m + n) w = sparkleRounds b.number (a + m) n (sparkleRounds b.number a m w) := by
  simp only [sparkleRounds_eq_roundsOn (two_le_branches_number b)]
  exact roundsOn_add loadsStored_sparkle (sparkleStep b.number) a m n w

/-- Where the rounds on the word file compose, so do the commands that run them. -/
theorem CompletesRounds.compose {p : Prim} {limit : Nat} {command : Byte → Byte → Instr}
    {rounds : Nat → Nat → Words → Words} (hcompletes : CompletesRounds p limit command rounds)
    (hadd : ∀ a m n w, rounds a (m + n) w = rounds (a + m) n (rounds a m w)) {s : State} {a b c : Nat} (hab : a ≤ b)
    (hbc : b ≤ c) (hb : b ≤ 255) (hcount : c - a ≤ 255) (hc : c ≤ limit) (hpresent : s.present p = true)
    (hlayout : s.layoutIs p = true) :
    ∃ t, exec (command (BitVec.ofNat 8 a) (BitVec.ofNat 8 (b - a))) s = .next t ∧
      exec (command (BitVec.ofNat 8 b) (BitVec.ofNat 8 (c - b))) t =
        exec (command (BitVec.ofNat 8 a) (BitVec.ofNat 8 (c - a))) s := by
  have hexec : ∀ (t : State) (start count : Nat), start ≤ 255 → count ≤ 255 → start + count ≤ limit →
      t.present p = true → t.layoutIs p = true →
      exec (command (BitVec.ofNat 8 start) (BitVec.ofNat 8 count)) t =
        .next { t with w := rounds start count t.w, done := true, pend := none } := by
    intro t start count hs hn hle
    have hrun := hcompletes t (BitVec.ofNat 8 start) (BitVec.ofNat 8 count)
    rw [BitVec.toNat_ofNat, BitVec.toNat_ofNat, Nat.mod_eq_of_lt (by omega), Nat.mod_eq_of_lt (by omega)] at hrun
    exact hrun hle
  have hjoin := hadd a (b - a) (c - b) s.w
  rw [Nat.add_sub_cancel' hab, show b - a + (c - b) = c - a by omega] at hjoin
  refine ⟨_, hexec s a (b - a) (by omega) (by omega) (by omega) hpresent hlayout, ?_⟩
  refine Eq.trans (hexec _ b (c - b) hb (by omega) (by omega) hpresent hlayout) ?_
  rw [hexec s a (c - a) (by omega) hcount (by omega) hpresent hlayout, hjoin]

/-- Settles O51: what the first command stores, the second loads, and the two commands' rounds joined are the third's. -/
theorem permutationRoundsCompose : Obligations.PermutationRoundsCompose := by
  intro s a b c br hab hbc byte
  refine ⟨fun hc hp hl => ?ascon, fun hc hp hl => ?photon, fun hc hp hl => ?xoodoo, fun hb hca hp hl => ?sparkle⟩
  case ascon => exact completesRounds_ascon.compose asconRounds_add hab hbc (by omega) (by omega) hc hp hl
  case photon => exact completesRounds_photon.compose photonRounds_add hab hbc (by omega) (by omega) hc hp hl
  case xoodoo => exact completesRounds_xoodoo.compose xoodooRounds_add hab hbc (by omega) (by omega) hc hp hl
  case sparkle => exact (completesRounds_sparkle c br).compose (sparkleRounds_add br) hab hbc hb hca (Nat.le_refl c) hp hl

end Sys2Proof.Machine

/-! ## Ascon, bit by bit (44_ascon.md R220 to R224) -/

namespace Sys2Proof.Machine

/-! ### The words (44_ascon.md R220) -/

/-- Word `xi` (44_ascon.md R220); the number of a word is below 5. -/
def AsconState.word (x : AsconState) : Nat → DWord
  | 0 => x.x0
  | 1 => x.x1
  | 2 => x.x2
  | 3 => x.x3
  | _ => x.x4

theorem asconBit_eq_word_asconLoad (w : Words) {i : Nat} (hi : i < 5) (j : Nat) :
    asconBit w i j = ((asconLoad w).word i).getLsbD j := by
  match i with
  | 0 | 1 | 2 | 3 | 4 =>
    refine Eq.trans ?_ BitVec.getLsbD_append.symm
    rfl

/-! ### Constant and S-box (44_ascon.md R222, R223) -/

theorem bitOf_toNat {n : Nat} (v : BitVec n) (j : Nat) : bitOf v.toNat j = v.getLsbD j := by
  rw [bitOf, BitVec.getLsbD, Nat.testBit_eq_decide_div_mod_eq]
  rfl

/-- The formula of the constants gives those R222 lists. -/
theorem bitOf_asconConstantTable {r : Nat} (hr : r < 12) (j : Nat) :
    bitOf (asconConstantTable.getD r 0) j = (asconConstant r).getLsbD j := by
  obtain ⟨-, -, -, htable, -⟩ := fixedTablesAgree
  rw [← bitOf_toNat, ← htable]
  simp [hr]

/-- The circuit of R223 works on the five bits of a column apart from the others, and on its 32 values it is the table. -/
theorem asconSubstitution_getLsbD (w : Words) {r i j : Nat} (hr : r < 12) (hi : i < 5) (hj : j < 64) :
    ((asconSubstitution (asconAddConstant r (asconLoad w))).word i).getLsbD j = asconSubstituted r w i j := by
  have hbit : ∀ k < 5, asconBit w k j = ((asconLoad w).word k).getLsbD j := fun k hk =>
    asconBit_eq_word_asconLoad w hk j
  rw [asconSubstituted, hbit 0 (by decide), hbit 1 (by decide), hbit 2 (by decide), hbit 3 (by decide),
    hbit 4 (by decide), bitOf_asconConstantTable hr]
  generalize asconLoad w = x
  match i with
  | 0 | 1 | 2 | 3 | 4 =>
    simp only [asconSubstitution, asconAddConstant, AsconState.word, BitVec.getLsbD_xor, BitVec.getLsbD_and,
      BitVec.getLsbD_not, hj, decide_true, Bool.true_and]
    generalize x.x0.getLsbD j = b0, x.x1.getLsbD j = b1, (x.x2.getLsbD j ^^ (asconConstant r).getLsbD j) = b2,
      x.x3.getLsbD j = b3, x.x4.getLsbD j = b4
    revert b0 b1 b2 b3 b4
    decide

/-! ### The linear layer (44_ascon.md R224) -/

theorem getLsbD_rotateRight_mod {n : Nat} (v : BitVec n) {a j : Nat} (ha : a < n) (hj : j < n) :
    (v.rotateRight a).getLsbD j = v.getLsbD ((j + a) % n) := by
  rw [BitVec.getLsbD_rotateRight, Nat.mod_eq_of_lt ha]
  rcases Nat.lt_or_ge j (n - a) with hin | hout
  · rw [decide_eq_true hin, cond_true, Nat.mod_eq_of_lt (by omega), Nat.add_comm]
  · rw [decide_eq_false (Nat.not_lt.mpr hout), cond_false, decide_eq_true hj, Bool.true_and,
      Nat.mod_eq_sub_mod (by omega), Nat.mod_eq_of_lt (by omega)]
    congr 1
    omega

theorem asconMix_getLsbD (x : DWord) {a b j : Nat} (ha : a < 64) (hb : b < 64) (hj : j < 64) :
    (asconMix a b x).getLsbD j = (x.getLsbD j ^^ x.getLsbD ((j + a) % 64) ^^ x.getLsbD ((j + b) % 64)) := by
  rw [asconMix, BitVec.getLsbD_xor, BitVec.getLsbD_xor, getLsbD_rotateRight_mod x ha hj, getLsbD_rotateRight_mod x hb hj]

theorem asconLinear_word (x : AsconState) {i : Nat} (hi : i < 5) :
    (asconLinear x).word i =
      asconMix (asconRotations.getD i (0, 0)).1 (asconRotations.getD i (0, 0)).2 (x.word i) := by
  match i with
  | 0 | 1 | 2 | 3 | 4 => rfl

/-! ### Rounds -/

theorem asconRounds_one_asconRound {r : Nat} (hr : r < 12) (w : Words) : AsconRound r w (asconRounds r 1 w) := by
  refine ⟨sameFrom_asconRounds r 1 w, fun i j hi hj => ?_⟩
  have hload : asconLoad (asconRounds r 1 w) = asconRound r (asconLoad w) := loadsStored_ascon.load_overlay w _
  have hrotations : ∀ i < 5, (asconRotations.getD i (0, 0)).1 < 64 ∧ (asconRotations.getD i (0, 0)).2 < 64 := by decide
  obtain ⟨ha, hb⟩ := hrotations i hi
  rw [asconBit_eq_word_asconLoad _ hi, hload, asconRound, asconLinear_word _ hi, asconMix_getLsbD _ ha hb hj]
  simp only [asconSubstitution_getLsbD w hr hi, hj, Nat.mod_lt _ (show 0 < 64 by decide)]

/-- Settles O44: words are stored and loaded again from round to round, and each round is that of R221 to R224 on bits. -/
theorem roundsAsconRunsItsRounds : Obligations.RoundsAsconRunsItsRounds := by
  intro s start count hpresent hrange hlayout
  refine ⟨asconRounds start.toNat count.toNat s.w, ?_, completesRounds_ascon s start count hrange hpresent hlayout⟩
  exact runsRounds_of_add s.w (asconRounds_zero _ _) (fun n => asconRounds_add _ n 1 s.w)
    fun r w hr => asconRounds_one_asconRound (by omega) w

end Sys2Proof.Machine

/-! ## Grain, bit by bit (45_grain.md R240 to R246) -/

namespace Sys2Proof.Machine

/-! ### Completion -/

theorem exec_roundsGrain {s : State} {count : Byte} {width : GrainWidth} {n : Nat} (mode : GrainMode)
    (hcount : count.toNat = n) (hrange : n ≤ grainLimit width) (hpresent : s.present .grain = true)
    (hlayout : s.layoutIs .grain = true) :
    exec (.roundsGrain count width mode) s =
      .next { s with w := grainRounds width mode n s.w, done := true, pend := none } := by
  subst hcount
  have hwf : (Instr.roundsGrain count width mode).wellFormed = true := by
    cases width <;> exact decide_eq_true hrange
  exact exec_completes_of_tags hwf rfl hpresent hlayout rfl

theorem byte_ofNat_toNat_of_le_grainLimit {width : GrainWidth} {n : Nat} (h : n ≤ grainLimit width) :
    (BitVec.ofNat 8 n).toNat = n := by
  cases width <;> rw [grainLimit] at h <;> rw [BitVec.toNat_ofNat, Nat.mod_eq_of_lt (by omega)]

/-- A command of either width is within its range exactly when its bits fit the output area, `W[8..15]`. -/
theorem le_grainLimit_iff {width : GrainWidth} {n : Nat} : n ≤ grainLimit width ↔ grainWordBits width * n ≤ 256 := by
  cases width <;> simp only [grainLimit, grainWordBits] <;> omega

/-- The ranges that the statements about Grain write out, by the model's names (30_encoding.md R86; 45_grain.md R240). -/
theorem grainRange_cases {width : GrainWidth} {n count : Nat}
    (h : (width = .w32 ∧ n = 32 ∧ count ≤ 8) ∨ (width = .w16 ∧ n = 16 ∧ count ≤ 16)) :
    n = grainWordBits width ∧ count ≤ grainLimit width := by
  rcases h with ⟨rfl, hn, hcount⟩ | ⟨rfl, hn, hcount⟩ <;> exact ⟨hn, hcount⟩

/-! ### Bits of the word file (41_layout.md R140) -/

theorem areaBit_eq_getLsbD (w : Words) {k q : Nat} (h : k + q / 32 < 16) :
    areaBit w k q = w[k + q / 32].getLsbD (q % 32) := by
  rw [areaBit, Vector.getElem?_eq_getElem h, Option.getD_some]

/-- The bits of a register held in four words of the file. -/
theorem areaBit_eq_pack128 (w : Words) {k i : Nat} (hk : k + 3 < 16) (hi : i < 128) :
    areaBit w k i = (pack128 w[k] w[k + 1] w[k + 2] w[k + 3]).getLsbD i := by
  have happend : (w[k + 3] ++ w[k + 2] ++ w[k + 1] ++ w[k] : BitVec (32 + 32 + 32 + 32)).getLsbD i = _ :=
    BitVec.getLsbD_append
  rw [areaBit_eq_getLsbD w (by omega)]
  refine Eq.trans ?_ happend.symm
  simp only [BitVec.getLsbD_append]
  obtain h | h | h | h : i / 32 = 0 ∨ i / 32 = 1 ∨ i / 32 = 2 ∨ i / 32 = 3 := by omega
  all_goals
    simp (disch := omega) only [h, Nat.mod_eq_sub, Nat.sub_sub, if_pos, if_neg, Nat.reduceMul, Nat.reduceAdd,
      Nat.sub_zero, Nat.add_zero]

theorem areaBit_registers (w : Words) {i : Nat} (hi : i < 128) :
    areaBit w 0 i = (grainLoad w).b.getLsbD i ∧ areaBit w 4 i = (grainLoad w).s.getLsbD i :=
  ⟨areaBit_eq_pack128 w (by omega) hi, areaBit_eq_pack128 w (by omega) hi⟩

theorem getElem_eq_of_grainLoad_eq {u v : Words} (h : grainLoad u = grainLoad v) {k : Nat} (hk : k < 8) :
    u[k] = v[k] := by
  have hstore := congrArg grainStore h
  rw [grainStore_grainLoad, grainStore_grainLoad, List.ofFn_inj] at hstore
  exact congrFun hstore ⟨k, hk⟩

/-- The registers and the output area are the whole word file. -/
theorem eq_of_grainLoad_of_areaBit {u v : Words} (hload : grainLoad u = grainLoad v)
    (harea : ∀ q, q < 256 → areaBit u 8 q = areaBit v 8 q) : u = v := by
  refine Vector.ext fun k hk => ?_
  rcases Nat.lt_or_ge k 8 with hlow | hhigh
  · exact getElem_eq_of_grainLoad_eq hload hlow
  · refine BitVec.eq_of_getLsbD_eq fun i hi => ?_
    have hbit := harea (32 * (k - 8) + i) (by omega)
    rw [areaBit_eq_getLsbD _ (by omega), areaBit_eq_getLsbD _ (by omega)] at hbit
    simpa only [show 8 + (32 * (k - 8) + i) / 32 = k by omega, show (32 * (k - 8) + i) % 32 = i by omega] using hbit

/-! ### Clocks (45_grain.md R241 to R243) -/

theorem grainClocks_add (mode : GrainMode) (m n : Nat) (x : GrainState) :
    grainClocks mode (m + n) x = grainClocks mode n (grainClocks mode m x) := by
  induction m generalizing x with
  | zero => rw [Nat.zero_add, grainClocks]
  | succ m ih => rw [Nat.add_right_comm, grainClocks, ih, grainClocks]

theorem shiftIn_getLsbD (r : BitVec 128) (bit : Bool) {i : Nat} (hi : i < 128) :
    (shiftIn r bit).getLsbD i = if i < 127 then r.getLsbD (i + 1) else bit := by
  have happend : (BitVec.ofBool bit ++ r.extractLsb' 1 127 : BitVec (1 + 127)).getLsbD i = _ := BitVec.getLsbD_append
  refine happend.trans ?_
  split_ifs with h
  · rw [BitVec.getLsbD_extractLsb', decide_eq_true h, Bool.true_and, Nat.add_comm]
  · obtain rfl : i = 127 := by omega
    simp

/-- The NFSR bit that the registers after t clocks begin with. -/
def nfsrBit (mode : GrainMode) (x : GrainState) (t : Nat) : Bool := (grainClocks mode t x).b.getLsbD 0

/-- The LFSR bit that the registers after t clocks begin with. -/
def lfsrBit (mode : GrainMode) (x : GrainState) (t : Nat) : Bool := (grainClocks mode t x).s.getLsbD 0

/-- The registers after t clocks are the windows at t of the two bit sequences. -/
theorem grainClocks_getLsbD (mode : GrainMode) (x : GrainState) (t : Nat) {i : Nat} (hi : i < 128) :
    (grainClocks mode t x).b.getLsbD i = nfsrBit mode x (t + i) ∧
      (grainClocks mode t x).s.getLsbD i = lfsrBit mode x (t + i) := by
  induction i generalizing t with
  | zero => exact ⟨rfl, rfl⟩
  | succ i ih =>
    obtain ⟨hb, hs⟩ := ih (t + 1) (by omega)
    rw [grainClocks_add] at hb hs
    rw [show t + (i + 1) = t + 1 + i by omega, ← hb, ← hs]
    simp only [grainClocks, grainClock, shiftIn_getLsbD _ _ (show i < 128 by omega),
      if_pos (show i < 127 by omega), and_self]

theorem grainF_grainClocks (mode : GrainMode) (x : GrainState) (t : Nat) :
    grainF (grainClocks mode t x).s = grainFAt (lfsrBit mode x) t := by
  simp only [grainF, grainFAt, grainClocks_getLsbD, Nat.reduceLT, Nat.add_zero]

theorem grainG_grainClocks (mode : GrainMode) (x : GrainState) (t : Nat) :
    grainG (grainClocks mode t x).b = grainGAt (nfsrBit mode x) t := by
  simp only [grainG, grainGAt, grainClocks_getLsbD, Nat.reduceLT, Nat.add_zero]

theorem grainOutput_grainClocks (mode : GrainMode) (x : GrainState) (t : Nat) :
    grainOutput (grainClocks mode t x) = grainYAt (nfsrBit mode x) (lfsrBit mode x) t := by
  simp only [grainOutput, grainH, grainYAt, grainClocks_getLsbD, Nat.reduceLT]

theorem grainFeedback_eq (mode : GrainMode) (y : Bool) : grainFeedback mode y = (decide (mode = .init) && y) := by
  cases mode <;> simp [grainFeedback]

/-- The first bits of the registers after each clock are the sequences of the feedback functions. -/
theorem grainSequences_nfsrBit_lfsrBit (mode : GrainMode) (n : Nat) (w : Words) :
    GrainSequences mode n w (nfsrBit mode (grainLoad w)) (lfsrBit mode (grainLoad w)) := by
  refine ⟨fun i hi => ?_, fun t _ => ?_⟩
  · obtain ⟨hb, hs⟩ := areaBit_registers w hi
    obtain ⟨hb', hs'⟩ := grainClocks_getLsbD mode (grainLoad w) 0 hi
    rw [Nat.zero_add] at hb' hs'
    exact ⟨hb'.symm.trans hb.symm, hs'.symm.trans hs.symm⟩
  · obtain ⟨hb, hs⟩ := grainClocks_getLsbD mode (grainLoad w) (t + 1) (show 127 < 128 by decide)
    have hclock : grainClocks mode (t + 1) (grainLoad w) = grainClock mode (grainClocks mode t (grainLoad w)) :=
      grainClocks_add mode t 1 _
    rw [hclock] at hb hs
    rw [show t + 128 = t + 1 + 127 by omega, ← hb, ← hs, ← grainOutput_grainClocks, ← grainF_grainClocks,
      ← grainG_grainClocks, ← grainFeedback_eq]
    exact ⟨shiftIn_getLsbD _ _ (by decide), shiftIn_getLsbD _ _ (by decide)⟩

/-! ### Output words (45_grain.md R240, R244) -/

theorem grainBits_getLsbD (mode : GrainMode) {n t : Nat} (hn : n ≤ 32) (ht : t < n) (x : GrainState) :
    (grainBits mode n x).getLsbD t = grainOutput (grainClocks mode t x) := by
  induction n generalizing t x with
  | zero => omega
  | succ n ih =>
    cases t with
    | zero => simp [grainBits, grainClocks]
    | succ t =>
      rw [grainClocks, ← ih (by omega) (by omega), grainBits]
      simp [show t + 1 < 32 by omega, -BitVec.getLsbD_eq_getElem, BitVec.getLsbD_shiftLeft]

theorem areaBit_setWord (w : Words) (v : Word) {k q : Nat} (hq : q < 256) :
    areaBit (setWord w (8 + k) v) 8 q = if q / 32 = k then v.getLsbD (q % 32) else areaBit w 8 q := by
  rw [areaBit_eq_getLsbD _ (by omega), setWord_getElem, areaBit_eq_getLsbD _ (by omega), apply_ite (BitVec.getLsbD · _)]
  simp only [Nat.add_left_cancel_iff]

/-- The word that the halfword z makes of `old`: z low for an even k, high for an odd one (45_grain.md R244). -/
def withHalf (old z : Word) (k : Nat) : Word :=
  if k % 2 = 0 then old.extractLsb' 16 16 ++ z.extractLsb' 0 16 else z.extractLsb' 0 16 ++ old.extractLsb' 0 16

theorem withHalf_getLsbD (old z : Word) (k : Nat) {i : Nat} (hi : i < 32) :
    (withHalf old z k).getLsbD i = if i / 16 = k % 2 then z.getLsbD (i % 16) else old.getLsbD i := by
  have happend : ∀ x y : Half, (x ++ y : Word).getLsbD i = _ := fun x y => BitVec.getLsbD_append
  have hextract : ∀ (v : Word) (a j : Nat), j < 16 → (v.extractLsb' a 16).getLsbD j = v.getLsbD (a + j) := by
    intro v a j hj
    rw [BitVec.getLsbD_extractLsb', decide_eq_true hj, Bool.true_and]
  rw [withHalf, apply_ite (BitVec.getLsbD · i), happend, happend]
  rcases Nat.mod_two_eq_zero_or_one k with hk | hk <;> rcases Nat.lt_or_ge i 16 with hlow | hhigh
  · simp (disch := omega) only [hk, reduceIte, if_pos, hextract, Nat.zero_add, Nat.mod_eq_of_lt]
  · simp (disch := omega) only [hk, reduceIte, if_neg, hextract, Nat.add_sub_cancel']
  · simp (disch := omega) only [hk, if_pos, if_neg, hextract, Nat.zero_add]
  · simp (disch := omega) only [hk, if_pos, if_neg, hextract, Nat.zero_add, Nat.mod_eq_sub_mod, Nat.mod_eq_of_lt]

theorem grainOutputWrite_w16 (z : Word) (w : Words) {k : Nat} (hk : k < 16) :
    grainOutputWrite .w16 k z w = setWord w (8 + k / 2) (withHalf w[8 + k / 2] z k) := by
  rw [grainOutputWrite, Vector.getElem?_eq_getElem (by omega)]
  rfl

/-- Word k of n bits is bits n k … n (k + 1) − 1 of the output area. -/
theorem areaBit_grainOutputWrite (width : GrainWidth) (z : Word) (w : Words) {k q : Nat} (hk : k < grainLimit width)
    (hq : q < 256) :
    areaBit (grainOutputWrite width k z w) 8 q =
      if q / grainWordBits width = k then z.getLsbD (q % grainWordBits width) else areaBit w 8 q := by
  cases width with
  | w32 => exact areaBit_setWord w z hq
  | w16 =>
    rw [grainOutputWrite_w16 z w hk, areaBit_setWord w _ hq, withHalf_getLsbD _ _ _ (by omega), grainWordBits]
    by_cases hword : q / 32 = k / 2
    · have hhalf : q % 32 / 16 = k % 2 ↔ q / 16 = k := by omega
      have hold : areaBit w 8 q = w[8 + q / 32].getLsbD (q % 32) := areaBit_eq_getLsbD w (by omega)
      simp only [← hword, hhalf, hold, if_pos, show q % 32 % 16 = q % 16 by omega]
    · rw [if_neg hword, if_neg (by omega)]

theorem roundsFrom_grainWord_registers (width : GrainWidth) (mode : GrainMode) (count : Nat) (x : GrainState × Words) :
    (roundsFrom (grainWord width mode) 0 count x).1 = grainClocks mode (grainWordBits width * count) x.1 := by
  induction count with
  | zero => rfl
  | succ count ih => rw [roundsFrom_add, Nat.mul_succ, grainClocks_add, ← ih, Nat.zero_add]; rfl

/-- As far as the words reach, bit q of the output area is the pre-output of clock q; beyond, it is as it was. -/
theorem areaBit_roundsFrom_grainWord (width : GrainWidth) (mode : GrainMode) {count q : Nat}
    (hcount : count ≤ grainLimit width) (hq : q < 256) (x : GrainState × Words) :
    areaBit (roundsFrom (grainWord width mode) 0 count x).2 8 q =
      if q < grainWordBits width * count then grainOutput (grainClocks mode q x.1) else areaBit x.2 8 q := by
  induction count with
  | zero => simp [roundsFrom]
  | succ count ih =>
    have hlast : roundsFrom (grainWord width mode) 0 (count + 1) x =
        grainWord width mode count (roundsFrom (grainWord width mode) 0 count x) := by
      rw [roundsFrom_add, Nat.zero_add]
      rfl
    obtain ⟨hpos, hword⟩ : 0 < grainWordBits width ∧ grainWordBits width ≤ 32 := by cases width <;> decide
    rw [hlast, grainWord, areaBit_grainOutputWrite width _ _ (by omega) hq,
      grainBits_getLsbD mode hword (Nat.mod_lt _ hpos), roundsFrom_grainWord_registers, ← grainClocks_add,
      ih (by omega)]
    by_cases hlastWord : q / grainWordBits width = count
    · subst hlastWord
      rw [if_pos rfl, Nat.div_add_mod, if_pos (Nat.lt_mul_div_succ q hpos)]
    · have hreach : q < grainWordBits width * count ↔ q < grainWordBits width * (count + 1) := by
        simp only [Nat.mul_comm (grainWordBits width), ← Nat.div_lt_iff_lt_mul hpos]
        omega
      simp only [if_neg hlastWord, hreach]

theorem loadsStored_grain : LoadsStored 8 grainLoad grainStore :=
  ⟨fun _ => rfl, fun _ x => congrArg₂ GrainState.mk (pack128_extractLsb' x.b) (pack128_extractLsb' x.s)⟩

/-- The registers that `ROUNDS.GRAIN` stores are the loaded ones, n COUNT clocks on. -/
theorem grainLoad_grainRounds (width : GrainWidth) (mode : GrainMode) (count : Nat) (w : Words) :
    grainLoad (grainRounds width mode count w) = grainClocks mode (grainWordBits width * count) (grainLoad w) := by
  rw [grainRounds, loadsStored_grain.load_overlay, roundsFrom_grainWord_registers]

/-- The output area that `ROUNDS.GRAIN` leaves. -/
theorem areaBit_grainRounds (width : GrainWidth) (mode : GrainMode) {count q : Nat} (hcount : count ≤ grainLimit width)
    (hq : q < 256) (w : Words) :
    areaBit (grainRounds width mode count w) 8 q =
      if q < grainWordBits width * count then grainOutput (grainClocks mode q (grainLoad w)) else areaBit w 8 q := by
  rw [← areaBit_roundsFrom_grainWord width mode hcount hq (grainLoad w, w), areaBit_eq_getLsbD _ (by omega),
    areaBit_eq_getLsbD _ (by omega), grainRounds, overlay_outside _ _ _ _ (Nat.le_add_right 8 _)]

/-! ### The statements -/

/-- Settles O45: the sequences are the first bits of the registers after each clock, the registers their windows. -/
theorem roundsGrainGeneratesItsSequence : Obligations.RoundsGrainGeneratesItsSequence := by
  intro s count width mode n hpresent hrange hlayout
  obtain ⟨rfl, hcount⟩ := grainRange_cases hrange
  refine ⟨nfsrBit mode (grainLoad s.w), lfsrBit mode (grainLoad s.w), grainRounds width mode count.toNat s.w,
    grainSequences_nfsrBit_lfsrBit mode _ s.w, fun i hi => ?_, fun q hq => ?_,
    exec_roundsGrain mode rfl hcount hpresent hlayout⟩
  · obtain ⟨hb, hs⟩ := areaBit_registers (grainRounds width mode count.toNat s.w) hi
    rw [hb, hs, grainLoad_grainRounds]
    exact grainClocks_getLsbD mode _ _ hi
  · rw [areaBit_grainRounds width mode hcount hq, grainOutput_grainClocks]

/-- Settles O53: the second command loads the registers that the first stored, n a clocks on. -/
theorem grainCommandsContinue : Obligations.GrainCommandsContinue := by
  intro s width mode a c n hpresent hrange hlayout
  obtain ⟨rfl, hac⟩ := grainRange_cases hrange
  have ha : a ≤ grainLimit width := by omega
  have hc : c ≤ grainLimit width := by omega
  refine ⟨_, _, _, exec_roundsGrain mode (byte_ofNat_toNat_of_le_grainLimit ha) ha hpresent hlayout,
    exec_roundsGrain mode (byte_ofNat_toNat_of_le_grainLimit hc) hc hpresent hlayout,
    exec_roundsGrain mode (byte_ofNat_toNat_of_le_grainLimit hac) hac hpresent hlayout, rfl,
    fun k hk => getElem_eq_of_grainLoad_eq ?_ hk, fun q hq => ?_⟩
  · simp only [grainLoad_grainRounds, Nat.mul_add, grainClocks_add]
  · have hfit := le_grainLimit_iff.mp hac
    rw [Nat.mul_add] at hfit
    rw [areaBit_grainRounds width mode hc (by omega), areaBit_grainRounds width mode hac (by omega),
      if_pos hq, if_pos (by rw [Nat.mul_add]; omega), grainLoad_grainRounds, grainClocks_add]

/-- Settles O54: both commands clock the registers 32 k times, and store the pre-output of clock q as bit q. -/
theorem grainWidthChangesOnlyThePacking : Obligations.GrainWidthChangesOnlyThePacking := by
  intro s mode k hpresent hk hlayout
  have hwords : k ≤ grainLimit .w32 := hk
  have hhalves : 2 * k ≤ grainLimit .w16 := Nat.mul_le_mul_left 2 hk
  have hclocks : grainWordBits .w16 * (2 * k) = grainWordBits .w32 * k := by
    simp only [grainWordBits]
    omega
  have hsame : grainRounds .w16 mode (2 * k) s.w = grainRounds .w32 mode k s.w := by
    refine eq_of_grainLoad_of_areaBit ?_ fun q hq => ?_
    · rw [grainLoad_grainRounds, grainLoad_grainRounds, hclocks]
    · rw [areaBit_grainRounds .w16 mode hhalves hq, areaBit_grainRounds .w32 mode hwords hq, hclocks]
  refine ⟨_, exec_roundsGrain mode (byte_ofNat_toNat_of_le_grainLimit hwords) hwords hpresent hlayout, ?_⟩
  rw [exec_roundsGrain mode (byte_ofNat_toNat_of_le_grainLimit hhalves) hhalves hpresent hlayout, hsame]

end Sys2Proof.Machine

/-! ## SPARKLE, branch by branch (46_sparkle.md R260 to R265) -/

namespace Sys2Proof.Machine

/-! ### Alzette and ELL (46_sparkle.md R263, R264) -/

theorem sparkleEll_getLsbD (v : Word) {i : Nat} (hi : i < 32) :
    (sparkleEll v).getLsbD i = if i < 16 then v.getLsbD (i + 16) ^^ v.getLsbD i else v.getLsbD (i - 16) := by
  rw [sparkleEll, getLsbD_rotateRight_mod _ (by decide) hi, BitVec.getLsbD_xor, BitVec.getLsbD_shiftLeft]
  split
  next hlow =>
    have hin : i + 16 < 32 := by omega
    simp [Nat.mod_eq_of_lt hin, hin]
  next hhigh =>
    have hwrap : (i + 16) % 32 = i - 16 := by omega
    simp [hwrap, show i - 16 < 16 by omega]

theorem rotateRight_zero (v : Word) : v.rotateRight 0 = v := by
  refine BitVec.eq_of_getLsbD_eq fun i hi => ?_
  rw [getLsbD_rotateRight_mod v (by decide) hi, Nat.add_zero, Nat.mod_eq_of_lt hi]

/-- Settles O58: the micro-steps are those of R263, since a rotation by 0 is none, and ELL is read bit by bit. -/
theorem alzetteAndEllFollowTheirFormulas : Obligations.AlzetteAndEllFollowTheirFormulas := by
  refine ⟨fun x y c => ?_, fun v i hi => sparkleEll_getLsbD v hi⟩
  simp only [alzette, alzetteStep, rotateRight_zero]

/-! ### Branches of the word file (46_sparkle.md R260) -/

theorem sparkleLoad_getElem (w : Words) {i : Nat} (hi : i < 8) : (sparkleLoad w)[i] = sparkleBranch w i := by
  rw [sparkleLoad, tabulate_getElem, sparkleBranch, Vector.getElem?_eq_getElem (by omega),
    Vector.getElem?_eq_getElem (by omega), Option.getD_some, Option.getD_some]

theorem sparkleX_eq_getElem (v : SparkleState) {i : Nat} (hi : i < 8) : sparkleX v i = v[i].1 := by
  rw [sparkleX, Vector.getElem?_eq_getElem hi, Option.getD_some]

theorem sparkleY_eq_getElem (v : SparkleState) {i : Nat} (hi : i < 8) : sparkleY v i = v[i].2 := by
  rw [sparkleY, Vector.getElem?_eq_getElem hi, Option.getD_some]

/-- What a command with one step leaves is what the step makes of the loaded branches. -/
theorem sparkleBranch_sparkleRounds_one {B : Nat} (hB : 2 ≤ B) (s : Nat) (w : Words) {i : Nat} (hi : i < 8) :
    sparkleBranch (sparkleRounds B s 1 w) i = (sparkleStep B s (sparkleLoad w))[i] := by
  rw [← sparkleLoad_getElem _ hi, sparkleRounds_eq_roundsOn hB]
  simp only [roundsOn, loadsStored_sparkle.load_overlay, roundsFrom]

theorem sameFrom_sparkleRounds (B start count : Nat) (w : Words) :
    SameFrom (2 * B) w (sparkleRounds B start count w) := sameFrom_overlay w (List.length_take_le _ _)

/-! ### One step (46_sparkle.md R261, R265) -/

/-- The branches after the constants of step s and the ARX-boxes. -/
theorem sparkleBoxes_sparkleAddConstants_getElem {B i : Nat} (s : Nat) (w : Words) (hi : i < 8) (hB : i < B) :
    (sparkleBoxes B (sparkleAddConstants s (sparkleLoad w)))[i] = sparkleBoxed s w i := by
  have hadded : (sparkleAddConstants s (sparkleLoad w))[i] =
      ((sparkleBranch w i).1,
        if i = 0 then (sparkleBranch w i).2 ^^^ sparkleConstant (s % 8)
        else if i = 1 then (sparkleBranch w i).2 ^^^ BitVec.ofNat 32 s else (sparkleBranch w i).2) := by
    simp only [sparkleAddConstants, tabulate_getElem, Fin.getElem_fin, sparkleLoad_getElem w hi]
    split_ifs <;> rfl
  simp only [sparkleBoxes, tabulate_getElem, Fin.getElem_fin, hadded, if_pos hB, sparkleBoxed]

/-- The order of the terms of an exclusive or does not matter. -/
theorem xorBelow_eq_foldr {n : Nat} {f g : Nat → Word} (hfg : ∀ i < n, f i = g i) :
    xorBelow n f = (List.range n).foldr (fun i acc => g i ^^^ acc) 0#32 := by
  have hterms : (List.range n).map f = (List.range n).map g :=
    List.map_congr_left fun i hi => hfg i (List.mem_range.mp hi)
  rw [xorBelow, ← List.foldl_map (f := f) (g := (· ^^^ ·)), hterms, List.foldl_eq_foldr, List.foldr_map]

theorem sparkleLinear_getElem_left (v : SparkleState) {h m : Nat} (hm : m < h) (hm8 : m < 8) :
    (sparkleLinear (2 * h) v)[m] =
      (sparkleX v ((m + 1) % h + h) ^^^ sparkleX v ((m + 1) % h) ^^^ sparkleEll (xorBelow h (sparkleY v)),
        sparkleY v ((m + 1) % h + h) ^^^ sparkleY v ((m + 1) % h) ^^^ sparkleEll (xorBelow h (sparkleX v))) := by
  simp only [sparkleLinear, tabulate_getElem, Nat.mul_div_cancel_left h Nat.two_pos, if_pos hm]

theorem sparkleLinear_getElem_right (v : SparkleState) {h i : Nat} (hi : i < h) (hi8 : i + h < 8) :
    (sparkleLinear (2 * h) v)[i + h] = v[i] := by
  have hleft : ¬i + h < h := by omega
  have hright : i + h < 2 * h := by omega
  simp only [sparkleLinear, tabulate_getElem, Nat.mul_div_cancel_left h Nat.two_pos, if_neg hleft, if_pos hright,
    Nat.add_sub_cancel, sparkleX_eq_getElem v (i := i) (by omega), sparkleY_eq_getElem v (i := i) (by omega)]

/-- The left branch before i, in the cycle of the left branches, is the one that takes its value from i. -/
theorem succ_pred_mod {h i : Nat} (hi : i < h) : ((i + h - 1) % h + 1) % h = i := by
  rw [Nat.mod_add_mod, Nat.sub_add_cancel (by omega), Nat.add_mod_right, Nat.mod_eq_of_lt hi]

theorem sparkleRounds_one_sparkleStep {h : Nat} (hpos : 0 < h) (hfit : 2 * h ≤ 8) (s : Nat) (w : Words) :
    SparkleStep h s w (sparkleRounds (2 * h) s 1 w) := by
  have hbox : ∀ k, (hk : k < 2 * h) →
      (sparkleBoxes (2 * h) (sparkleAddConstants s (sparkleLoad w)))[k] = sparkleBoxed s w k :=
    fun k hk => sparkleBoxes_sparkleAddConstants_getElem s w (by omega) hk
  refine ⟨?frame, fun i hi => ⟨?left, ?right⟩⟩
  case frame => simpa only [← Nat.mul_assoc] using sameFrom_sparkleRounds (2 * h) s 1 w
  case left =>
    have hx : ∀ k < 2 * h, sparkleX (sparkleBoxes (2 * h) (sparkleAddConstants s (sparkleLoad w))) k =
        (sparkleBoxed s w k).1 := fun k hk => by rw [sparkleX_eq_getElem _ (by omega), hbox k hk]
    have hy : ∀ k < 2 * h, sparkleY (sparkleBoxes (2 * h) (sparkleAddConstants s (sparkleLoad w))) k =
        (sparkleBoxed s w k).2 := fun k hk => by rw [sparkleY_eq_getElem _ (by omega), hbox k hk]
    have hm : (i + h - 1) % h < h := Nat.mod_lt _ hpos
    rw [sparkleBranch_sparkleRounds_one (by omega) s w (by omega), sparkleStep,
      sparkleLinear_getElem_left _ hm (by omega), succ_pred_mod hi, hx i (by omega), hx (i + h) (by omega),
      hy i (by omega), hy (i + h) (by omega), xorBelow_eq_foldr fun k hk => hx k (by omega),
      xorBelow_eq_foldr fun k hk => hy k (by omega)]
  case right =>
    rw [sparkleBranch_sparkleRounds_one (by omega) s w (by omega), sparkleStep,
      sparkleLinear_getElem_right _ hi (by omega), hbox i (by omega)]

/-! ### The statement -/

/-- B is twice the number of left branches (46_sparkle.md R265), and at most eight. -/
theorem branches_number_eq_two_mul (b : Branches) : ∃ h, 0 < h ∧ 2 * h ≤ 8 ∧ b.number = 2 * h := by
  cases b
  case b4 => exact ⟨2, by decide⟩
  case b6 => exact ⟨3, by decide⟩
  case b8 => exact ⟨4, by decide⟩

/-- Settles O46: branches are stored and loaded again from step to step, and each step is that of R261 to R265. -/
theorem roundsSparkleRunsItsSteps : Obligations.RoundsSparkleRunsItsSteps := by
  intro s start count b hpresent hlayout
  refine ⟨sparkleRounds b.number start.toNat count.toNat s.w, ?_,
    completesRounds_sparkle _ b s start count (Nat.le_refl _) hpresent hlayout⟩
  refine runsRounds_of_add s.w (sparkleRounds_zero b _ _) (fun n => sparkleRounds_add b _ n 1 s.w) fun r w _ => ?_
  obtain ⟨h, hpos, hfit, hnumber⟩ := branches_number_eq_two_mul b
  rw [hnumber, Nat.mul_div_cancel_left h Nat.two_pos]
  exact sparkleRounds_one_sparkleStep hpos hfit r w

end Sys2Proof.Machine

/-! ## TinyJAMBU, bit by bit and word by word (47_jambu.md R280 to R283) -/

namespace Sys2Proof.Machine

/-! ### Key bits (47_jambu.md R282) -/

/-- The key word k_j = LE32(MKEY, 4j). -/
def jambuKeyWord (m : Material) (j : Nat) : Word :=
  le32 ((m[4 * j]?).getD 0#8) ((m[4 * j + 1]?).getD 0#8) ((m[4 * j + 2]?).getD 0#8) ((m[4 * j + 3]?).getD 0#8)

/-- Key bit i, counted through the bytes of `MKEY`, bit 0 of each first. -/
def jambuKeyBit (m : Material) (i : Nat) : Bool := ((m[i / 8]?).getD 0#8).getLsbD (i % 8)

theorem jambuKeyWord_getLsbD (m : Material) (j : Nat) {i : Nat} (hi : i < 32) :
    (jambuKeyWord m j).getLsbD i = jambuKeyBit m (32 * j + i) := by
  rw [jambuKeyWord, le32_getLsbD, jambuKeyBit]
  obtain ⟨b, r, hr, rfl⟩ : ∃ b r, r < 8 ∧ i = 8 * b + r := ⟨i / 8, i % 8, by omega, by omega⟩
  rw [show (32 * j + (8 * b + r)) / 8 = 4 * j + b by omega, show (32 * j + (8 * b + r)) % 8 = r by omega]
  obtain rfl | rfl | rfl | rfl : b = 0 ∨ b = 1 ∨ b = 2 ∨ b = 3 := by omega
  all_goals simp (disch := omega) only [if_pos, if_neg, Nat.mul_zero, Nat.zero_add, Nat.add_zero, Nat.reduceMul,
    Nat.add_sub_cancel_left]

/-- The key material as little-endian words; the first four are the key. -/
def jambuKeyWords (m : Material) : Words := tabulate 16 fun j => jambuKeyWord m j

theorem areaBit_jambuKeyWords (m : Material) {i : Nat} (hi : i < 128) :
    areaBit (jambuKeyWords m) 0 i = jambuKeyBit m i := by
  rw [areaBit_eq_getLsbD _ (by omega), jambuKeyWords, tabulate_getElem, jambuKeyWord_getLsbD m _ (by omega)]
  simp only [Nat.zero_add, Nat.div_add_mod]

theorem jambuKeyOf_getLsbD (m : Material) {i : Nat} (hi : i < 128) : (jambuKeyOf m).getLsbD i = jambuKeyBit m i :=
  (areaBit_eq_pack128 (jambuKeyWords m) (k := 0) (by decide) hi).symm.trans (areaBit_jambuKeyWords m hi)

/-! ### The register as a window of its bit sequence (47_jambu.md R280, R281) -/

/-- The register after t steps. -/
def jambuAfter (key r : BitVec 128) (t : Nat) : BitVec 128 := roundsFrom (jambuKeyedStep key) 0 t r

/-- The bit that the register after t steps begins with. -/
def jambuBit (key r : BitVec 128) (t : Nat) : Bool := (jambuAfter key r t).getLsbD 0

theorem jambuAfter_succ (key r : BitVec 128) (t : Nat) :
    jambuAfter key r (t + 1) = jambuStep (jambuAfter key r t) (key.getLsbD (t % 128)) := by
  rw [jambuAfter, roundsFrom_add, Nat.zero_add]
  rfl

theorem jambuAfter_getLsbD (key r : BitVec 128) (t : Nat) {i : Nat} (hi : i < 128) :
    (jambuAfter key r t).getLsbD i = jambuBit key r (t + i) := by
  induction i generalizing t with
  | zero => rfl
  | succ i ih =>
    rw [show t + (i + 1) = t + 1 + i by omega, ← ih (t + 1) (by omega), jambuAfter_succ, jambuStep,
      shiftIn_getLsbD _ _ (by omega), if_pos (by omega)]

theorem areaBit_eq_jambuLoad (w : Words) {i : Nat} (hi : i < 128) : areaBit w 0 i = (jambuLoad w).getLsbD i :=
  areaBit_eq_pack128 w (by decide) hi

/-- The first bits of the register after each step are the sequence of the feedback rule. -/
theorem jambuSequence_jambuBit (m : Material) (n : Nat) (w : Words) :
    JambuSequence (jambuKeyBit m) n w (jambuBit (jambuKeyOf m) (jambuLoad w)) := by
  refine ⟨fun i hi => ?first, fun t _ => ?next⟩
  case first =>
    have hwindow := jambuAfter_getLsbD (jambuKeyOf m) (jambuLoad w) 0 hi
    rw [Nat.zero_add] at hwindow
    rw [areaBit_eq_jambuLoad w hi, ← hwindow]
    rfl
  case next =>
    rw [show t + 128 = t + 1 + 127 by omega, ← jambuAfter_getLsbD _ _ (t + 1) (by decide), jambuAfter_succ, jambuStep,
      shiftIn_getLsbD _ _ (by decide), if_neg (by decide), jambuFeedback, jambuKeyOf_getLsbD m (by omega)]
    simp only [jambuAfter_getLsbD, Nat.reduceLT, Nat.add_zero]

/-- The register that `ROUNDS.JAMBU` stores is the loaded one, 128 COUNT steps on. -/
theorem jambuLoad_jambuRounds (m : Material) (count : Nat) (w : Words) :
    jambuLoad (jambuRounds m count w) = jambuAfter (jambuKeyOf m) (jambuLoad w) (128 * count) :=
  loadsStored_jambu.load_overlay w _

/-- Settles O47: the sequence is the first bits of the register after each step, the register its window. -/
theorem roundsJambuRunsItsSequence : Obligations.RoundsJambuRunsItsSequence := by
  intro s count hpresent hlayout hmaterial
  refine ⟨jambuBit (jambuKeyOf s.mkey) (jambuLoad s.w), jambuRounds s.mkey count.toNat s.w,
    jambuSequence_jambuBit s.mkey _ s.w, fun i hi => ?_, sameFrom_jambuRounds _ _ _,
    exec_roundsJambu rfl hpresent hlayout hmaterial⟩
  rw [areaBit_eq_jambuLoad _ hi, jambuLoad_jambuRounds, jambuAfter_getLsbD _ _ _ hi]

/-! ### The word form (47_jambu.md R283) -/

/-- The word `v` is the bits n … n + 31 of a bit sequence. -/
def WordWindow (x : Nat → Bool) (n : Nat) (v : Word) : Prop := ∀ i, i < 32 → v.getLsbD i = x (n + i)

/-- The four words are the bits n … n + 127 of a bit sequence. -/
def RegisterWindow (x : Nat → Bool) (n : Nat) : Word × Word × Word × Word → Prop
  | (s0, s1, s2, s3) =>
    WordWindow x n s0 ∧ WordWindow x (n + 32) s1 ∧ WordWindow x (n + 64) s2 ∧ WordWindow x (n + 96) s3

theorem WordWindow.unique {x : Nat → Bool} {n : Nat} {u v : Word} (hu : WordWindow x n u) (hv : WordWindow x n v) :
    u = v := BitVec.eq_of_getLsbD_eq fun i hi => (hu i hi).trans (hv i hi).symm

theorem RegisterWindow.unique {x : Nat → Bool} {n : Nat} {p q : Word × Word × Word × Word}
    (hp : RegisterWindow x n p) (hq : RegisterWindow x n q) : p = q := by
  obtain ⟨hp0, hp1, hp2, hp3⟩ := hp
  obtain ⟨hq0, hq1, hq2, hq3⟩ := hq
  exact Prod.ext (hp0.unique hq0) (Prod.ext (hp1.unique hq1) (Prod.ext (hp2.unique hq2) (hp3.unique hq3)))

/-- Adjacent windows, shifted together by a, are the window a bits on. -/
theorem WordWindow.funnel {x : Nat → Bool} {n a : Nat} {u v : Word} (hu : WordWindow x n u)
    (hv : WordWindow x (n + 32) v) (ha : a ≤ 32) : WordWindow x (n + a) ((u >>> a) ||| (v <<< (32 - a))) := by
  intro i hi
  rw [BitVec.getLsbD_or, BitVec.getLsbD_ushiftRight, BitVec.getLsbD_shiftLeft, decide_eq_true hi, Bool.true_and]
  rcases Nat.lt_or_ge (a + i) 32 with hlow | hhigh
  · rw [decide_eq_true (by omega : i < 32 - a), hu _ hlow, Bool.not_true, Bool.false_and, Bool.or_false, Nat.add_assoc]
  · rw [decide_eq_false (by omega : ¬i < 32 - a), BitVec.getLsbD_of_ge u _ hhigh, Bool.false_or, Bool.not_false,
      Bool.true_and, hv _ (by omega), show n + 32 + (i - (32 - a)) = n + a + i by omega]

/-- One word update moves the window on by 32 steps of the feedback rule: each shifted pair of words is one of its taps. -/
theorem RegisterWindow.wordUpdate {x : Nat → Bool} {n : Nat} {q : Word × Word × Word × Word} {kw : Word}
    (hq : RegisterWindow x n q)
    (hstep : ∀ i, i < 32 → x (n + i + 128) = (x (n + i) ^^ x (n + i + 47) ^^ !(x (n + i + 70) && x (n + i + 85)) ^^
      x (n + i + 91) ^^ kw.getLsbD i)) :
    RegisterWindow x (n + 32) (jambuWordUpdate kw q) := by
  obtain ⟨s0, s1, s2, s3⟩ := q
  obtain ⟨h0, h1, h2, h3⟩ := hq
  refine ⟨h1, h2, h3, fun i hi => ?_⟩
  have htap47 := h1.funnel (a := 15) h2 (by decide) i hi
  have htap70 := h2.funnel (a := 6) h3 (by decide) i hi
  have htap85 := h2.funnel (a := 21) h3 (by decide) i hi
  have htap91 := h2.funnel (a := 27) h3 (by decide) i hi
  rw [show n + 32 + 96 + i = n + i + 128 by omega, hstep i hi]
  simp only [BitVec.getLsbD_xor, BitVec.getLsbD_not, BitVec.getLsbD_and, decide_eq_true hi, Bool.true_and, h0 i hi,
    htap47, htap70, htap85, htap91, Nat.add_right_comm n _ i, Nat.add_assoc, Nat.reduceAdd]

theorem registerWindow_of_areaBit {x : Nat → Bool} {n : Nat} {w : Words} (h : ∀ i, i < 128 → areaBit w 0 i = x (n + i)) :
    RegisterWindow x n (w[0], w[1], w[2], w[3]) := by
  have hword : ∀ j, (hj : j < 4) → WordWindow x (n + 32 * j) w[j] := by
    intro j hj i hi
    have hbit := h (32 * j + i) (by omega)
    rw [areaBit_eq_getLsbD w (by omega)] at hbit
    simpa only [Nat.zero_add, show (32 * j + i) / 32 = j by omega, show (32 * j + i) % 32 = i by omega,
      Nat.add_assoc] using hbit
  exact ⟨hword 0 (by decide), hword 1 (by decide), hword 2 (by decide), hword 3 (by decide)⟩

/-- In the first block the word update under k_j moves the window at 32 j on to 32 (j + 1). -/
theorem JambuSequence.wordUpdate {m : Material} {w : Words} {x : Nat → Bool} {j : Nat}
    {q : Word × Word × Word × Word} (hseq : JambuSequence (jambuKeyBit m) 128 w x) (hj : j < 4)
    (hq : RegisterWindow x (32 * j) q) : RegisterWindow x (32 * (j + 1)) (jambuWordUpdate (jambuKeyWord m j) q) := by
  obtain ⟨-, hstep⟩ := hseq
  refine hq.wordUpdate fun i hi => ?_
  rw [hstep _ (by omega), Nat.mod_eq_of_lt (by omega), jambuKeyWord_getLsbD m j hi]

/-- Settles O55: each word update moves the window of the block's bit sequence on by 32 steps. -/
theorem jambuBlockIsFourWordUpdates : Obligations.JambuBlockIsFourWordUpdates := by
  intro s hpresent hlayout hmaterial
  obtain ⟨x, w, hseq, hlast, hsame, hexec⟩ := roundsJambuRunsItsSequence s 1#8 hpresent hlayout hmaterial
  have hfirst : RegisterWindow x (32 * 0) (s.w[0], s.w[1], s.w[2], s.w[3]) :=
    registerWindow_of_areaBit fun i hi => by rw [Nat.mul_zero, Nat.zero_add, hseq.left i hi]
  have hupdate0 := hseq.wordUpdate (j := 0) (by decide) hfirst
  have hupdate1 := hseq.wordUpdate (j := 1) (by decide) hupdate0
  have hupdate2 := hseq.wordUpdate (j := 2) (by decide) hupdate1
  have hupdate3 := hseq.wordUpdate (j := 3) (by decide) hupdate2
  exact ⟨w, hexec, hsame, (registerWindow_of_areaBit hlast).unique hupdate3⟩

end Sys2Proof.Machine

/-! ## Issue: every word of a `CMD` write (60_exceptions.md R341, R342) -/

namespace Sys2Proof.Machine

/-- Settles O7: the first check on numbers that holds is the machine's, and with it the code that is recorded. -/
theorem commandWriteFollowsTheCheckOrder : Obligations.CommandWriteFollowsTheCheckOrder := by
  intro s c hr hb
  unfold issued
  cases hfind : (checksOf s c).find? (fun check => check.1) with
  | some check =>
    have hcode : issueCheck s c = some check.2 := by rw [← firstCode_checksOf, firstCode, hfind, Option.map_some]
    exact writeMakes_cmd_rejected hr hb hcode
  | none => exact writeMakes_cmd_accepted hr hb ((issueCheck_eq_none_iff s c).mpr hfind)

/-- A word of a known `OP` with RSV = 0 that names an absent primitive fails check 3 first. -/
theorem encodingCheck_of_primAbsent {cap : Byte} {c : Word} (hnamed : 2 ≤ (opField c).toNat) (hop : (opField c).toNat < 6)
    (hrsv : rsvField c = 0#4) (habsent : primAbsent cap (primField c) = true) : encodingCheck cap c = some .ePrim := by
  simp only [encodingCheck]
  rw [if_neg (Nat.not_le.mpr hop), if_neg (by simp [hrsv]), if_pos (by simp [hnamed, habsent])]

/-- Settles O8: an encoded command has a known `OP` and RSV = 0, so the check of its primitive is the first that can fail. -/
theorem absentPrimitivesAreRejected : Obligations.AbsentPrimitivesAreRejected := by
  intro s i p hr hb hp hcap
  obtain ⟨hnamed, hcode⟩ := fields_encode_of_prim? hp
  have habsent : primAbsent s.primPresent (primField (encode i)) = true :=
    (primAbsent_iff s _).mpr (.inr (hcode ▸ hcap))
  have hpass := passesUpToRange_encode (builtIn_reference i)
  have hcheck : issueCheck s (encode i) = some .ePrim := by
    rw [issueCheck, encodingCheck_of_primAbsent hnamed hpass.op hpass.rsv habsent]
  exact writeMakes_cmd_rejected hr hb hcheck

end Sys2Proof.Machine

/-! ## Steps and completion (60_exceptions.md R343, R344, R351, R375, R376) -/

namespace Sys2Proof.Machine

/-- Settles O11: a step is a turn, and every turn answers a next state. -/
theorem everyStepAnswersANextState : Obligations.EveryStepAnswersANextState := step_next

theorem engineTurn_of_no_pend {s : State} (h : s.pend = none) : engineTurn s = .next s := by
  simp [engineTurn, h]

/-- Settles O10: the equations of a step, by the agenda, and of the engine's turn, by the command in flight. -/
theorem stepRunsTheDecodedCommand : Obligations.StepRunsTheDecodedCommand := by
  refine ⟨fun s t rest h => ?_, fun s h => ?_, fun s c i hr hc hd => engineTurn_of_pend hr hc hd,
    fun s h => engineTurn_of_no_pend h⟩
  · rw [step, h]
  · rw [step, h, turn]

/-- An accepted word is that of a command. -/
theorem exists_encode_of_issueCheck {s : State} {c : Word} (h : issueCheck s c = none) : ∃ i, encode i = c := by
  obtain ⟨hcheck, -⟩ := issueCheck_eq_none_iff_encoding_tag.mp h
  obtain ⟨hpass, -⟩ := passesUpToRange_of_encodingCheck hcheck
  obtain ⟨i, hrow⟩ := exists_rowOf hpass
  exact ⟨i, encode_of_rowOf hpass hrow⟩

/-- The engine's turn completes the command whose accepted word is in flight. -/
theorem engineTurn_of_accepted {s : State} {c : Word} (hr : s.inReset = false) (hc : s.pend = some c)
    (h : issueCheck s c = none) : ∃ i, engineTurn s = .next (effectOf i s).finish := by
  obtain ⟨i, rfl⟩ := exists_encode_of_issueCheck h
  exact ⟨i, engineTurn_completes hr hc h⟩

/-- No effect of a command touches the error record, `OVR` or the enables. -/
theorem EffectKind.record {s u : State} {i : Instr} (hu : EffectKind i s u) :
    u.err = s.err ∧ u.ecode = s.ecode ∧ u.ecmd = s.ecmd ∧ u.ovr = s.ovr ∧ u.ctrl = s.ctrl := by
  cases hu <;> exact ⟨rfl, rfl, rfl, rfl, rfl⟩

/-- Settles O12: what is accepted meets its command's requirements, and completion sets `DONE` and frees `PEND` only. -/
theorem acceptedCommandsComplete : Obligations.AcceptedCommandsComplete := by
  intro s c hr hc hcheck
  obtain ⟨i, hturn⟩ := engineTurn_of_accepted hr hc ((issueCheck_eq_none_iff s c).mpr hcheck)
  obtain ⟨herr, hecode, hecmd, hovr, hctrl⟩ := (effectKind_effectOf i s).record
  exact ⟨(effectOf i s).finish, hturn, rfl, rfl, herr, hecode, hecmd, hovr, hctrl⟩

/-- In the states of a run the engine's turn keeps the error record. -/
theorem engineTurn_record {s t : State} (hinv : s.pendAccepted) (h : engineTurn s = .next t) :
    t.ecode = s.ecode ∧ t.ecmd = s.ecmd := by
  rcases engineTurn_cases s with hidle | ⟨c, hr, hc, -⟩
  · cases hidle.symm.trans h
    exact ⟨rfl, rfl⟩
  · obtain ⟨i, hturn⟩ := engineTurn_of_accepted hr hc (hinv c hc)
    cases hturn.symm.trans h
    obtain ⟨-, hecode, hecmd, -⟩ := (effectKind_effectOf i s).record
    exact ⟨hecode, hecmd⟩

/-- A host write keeps `ECODE` and `ECMD`, or is a rejected write of `CMD` while idle. -/
theorem hostWrite_record (s : State) (host : Nat) (off : BitVec 9) (bytes : Nat) (v : Word) :
    ((hostWrite s host off bytes v).ecode = s.ecode ∧ (hostWrite s host off bytes v).ecmd = s.ecmd) ∨
      (s.inReset = false ∧ bytes = 4 ∧ off = 0x010#9 ∧ s.busy = false ∧
        ∃ e r, issueCheck s v = some e ∧ hostWrite s host off bytes v = (s.reject e v).respond r) := by
  obtain ⟨u, r, hw, hu⟩ := hostWrite_cases s host off bytes v
  rw [hw]
  rcases hu with rfl | ⟨hr, hbytes, -, ⟨-, rfl⟩ | ⟨-, rfl⟩ | ⟨-, rfl⟩ | ⟨hoff, hb, e, he, rfl⟩ | ⟨-, -, -, rfl⟩ |
    ⟨-, -, -, rfl⟩⟩
  case inr.inr.inr.inr.inl => exact .inr ⟨hr, hbytes, BitVec.eq_of_toNat_eq hoff, hb, e, r, he, rfl⟩
  all_goals exact .inl ⟨rfl, rfl⟩

/-- A code that the machine's checks give is that of the first check on numbers that holds. -/
theorem exists_find?_of_issueCheck {s : State} {c : Word} {e : ErrorCode} (h : issueCheck s c = some e) :
    ∃ check, (checksOf s c).find? (fun check => check.1) = some check ∧ check.2 = e :=
  Option.map_eq_some_iff.mp ((firstCode_checksOf s c).trans h)

/-- Settles O20: of the turns only a rejection and a reset touch the record; the engine's turn rejects nothing, since what is in
flight was accepted. -/
theorem errorRecordChangesOnlyByRejectionOrReset : Obligations.ErrorRecordChangesOnlyByRejectionOrReset := by
  intro s t hinv hstep
  have hturn : turn s.advance (nextTurn s) = .next t := step_eq_turn s ▸ hstep
  cases hx : nextTurn s with
  | read host off bytes =>
    rw [hx] at hturn
    cases hturn
    obtain ⟨r, d, hread⟩ := hostRead_frame s.advance host off bytes
    rw [hread]
    exact .inl ⟨rfl, rfl⟩
  | write host off bytes v =>
    rw [hx] at hturn
    cases hturn
    rcases hostWrite_record s.advance host off bytes v with hkeep | ⟨hr, rfl, rfl, hb, e, r, he, hw⟩
    · exact .inl hkeep
    · obtain ⟨check, hfind, rfl⟩ := exists_find?_of_issueCheck he
      rw [hw]
      exact .inr (.inr ⟨v, check, ⟨⟨host, hx⟩, hr⟩, hb, hfind, rfl, rfl, rfl⟩)
  | engine =>
    rw [hx, turn] at hturn
    exact .inl (engineTurn_record (s := s.advance) hinv.advance.pending hturn)
  | assertReset => exact .inr (.inl (.inl hx))
  | releaseReset =>
    cases hr : s.inReset with
    | true => exact .inr (.inl (.inr ⟨hx, hr⟩))
    | false =>
      have hidle : s.advance.releaseReset = s.advance := if_neg (Bool.eq_false_iff.mp hr)
      rw [hx, turn, hidle] at hturn
      cases hturn
      exact .inl ⟨rfl, rfl⟩

end Sys2Proof.Machine

/-! ## The reset input and writes while busy (70_reset_and_hazards.md R380, R384) -/

namespace Sys2Proof.Machine

theorem releaseReset_of_inReset {s : State} (h : s.inReset = true) :
    s.releaseReset = { s.resetItems with inReset := false } := if_pos h

/-- Settles O23: while reset is asserted every access is only answered, and both edges give every item its reset value. -/
theorem resetInputResetsEverything : Obligations.ResetInputResetsEverything := by
  refine ⟨fun s off v hr _ _ => ⟨fun host => ?_, fun host => ?_, ?_⟩,
    fun s => ⟨s.assertReset, rfl, rfl, congrArg Host.Outcome.next (releaseReset_of_inReset rfl)⟩,
    fun s hr => congrArg Host.Outcome.next (releaseReset_of_inReset hr)⟩
  · rw [turn, hostRead, if_pos hr, State.respond]
  · rw [turn, hostWrite, if_pos hr, State.respond]
  · rw [turn, engineTurn, if_pos hr]

/-- While busy a write of a word of `DATA` or `KEY` is lost. -/
theorem writeRegion_buffer_busy {s : State} {off : Nat} (v : Word) (hb : s.busy = true) (hlo : 0x100 ≤ off)
    (hhi : off < 0x170) : writeRegion s v (regionOf off) = s.overrun := by
  rcases Nat.lt_or_ge off 0x140 with hdata | hkey
  · rw [regionOf_data hlo hdata, writeRegion, writeBuffer, if_pos hb]
  · rw [regionOf_key hkey hhi, writeRegion, writeBuffer, if_pos hb]

/-- The regions that take writes are those of `CTRL`, `STATUS`, `CMD` and the two buffers (20_memory.md R54). -/
theorem writeRegion_elsewhere (s : State) {off : Nat} (v : Word)
    (h : ¬(off = 0x010 ∨ (0x100 ≤ off ∧ off < 0x170) ∨ off = 0x008 ∨ off = 0x00C)) :
    writeRegion s v (regionOf off) = s := by
  obtain ⟨hctrl, hstatus, hcmd⟩ := regionOf_control (off := off)
  cases hreg : regionOf off with
  | ctrl => exact absurd (.inr (.inr (.inl (hctrl hreg)))) h
  | status => exact absurd (.inr (.inr (.inr (hstatus hreg)))) h
  | cmd => exact absurd (.inl (hcmd hreg)) h
  | data a => exact absurd (.inr (.inl (regionOf_buffer (.inl hreg)).2)) h
  | key a => exact absurd (.inr (.inl (regionOf_buffer (.inr hreg)).2)) h
  | _ => rfl

/-- A legal write makes what the region of its offset makes of it. -/
theorem writeMakes_of_region {s t : State} {off : Nat} {v : Word} (hr : s.inReset = false) (hlt : off < 0x200)
    (hoff : off % 4 = 0) (ht : writeRegion s v (regionOf off) = t) : WriteMakes s off v t :=
  ht ▸ writeMakes_of_legal v hr hlt hoff

/-- Settles O28: what a legal write does is what its region does with it, and `CMD`, `DATA` and `KEY` drop it while busy. -/
theorem writesWhileBusyAreDropped : Obligations.WritesWhileBusyAreDropped := by
  intro s off v hr hb hlt h4
  refine ⟨fun hoff => ?dropped, fun hoff => ?ctrl, fun hoff => ?status, fun hoff => ?elsewhere⟩ <;>
    refine writeMakes_of_region hr hlt h4 ?_
  case dropped =>
    rcases hoff with rfl | ⟨hlo, hhi⟩
    · exact (if_pos hb : s.issue v = s.overrun)
    · exact writeRegion_buffer_busy v hb hlo hhi
  case ctrl =>
    subst hoff
    rfl
  case status =>
    subst hoff
    rfl
  case elsewhere => exact writeRegion_elsewhere s v hoff

end Sys2Proof.Machine

/-! ## PHOTON, cell by cell (48_photon.md R300 to R305) -/

namespace Sys2Proof.Machine

/-! ### The field GF(2^4) (48_photon.md R305) -/

theorem gfDouble_xor (a b : Nibble) : gfDouble (a ^^^ b) = gfDouble a ^^^ gfDouble b := by
  revert a b; decide

theorem gfMul_comm (a b : Nibble) : gfMul a b = gfMul b a := by
  revert a b; decide

theorem gfMul_gfDouble (a b : Nibble) : gfMul a (gfDouble b) = gfDouble (gfMul a b) := by
  revert a b; decide

theorem gfMul_zero (a : Nibble) : gfMul a 0#4 = 0#4 := by
  revert a; decide

theorem one_gfMul (a : Nibble) : gfMul 1#4 a = a := by
  revert a; decide

theorem zero_gfMul (a : Nibble) : gfMul 0#4 a = 0#4 := by
  revert a; decide

theorem xor_gfMul (a b c : Nibble) : gfMul (a ^^^ b) c = gfMul a c ^^^ gfMul b c := by
  have hbit : ∀ (t : Bool) (u v : Nibble),
      (if t then u ^^^ v else 0#4) = (if t then u else 0#4) ^^^ (if t then v else 0#4) := by decide
  simp only [gfMul, gfDouble_xor, hbit]
  ac_rfl

theorem gfMul_xor (a b c : Nibble) : gfMul a (b ^^^ c) = gfMul a b ^^^ gfMul a c := by
  rw [gfMul_comm, xor_gfMul, gfMul_comm b, gfMul_comm c]

/-- A product is a sum of doubles of one factor, and a third factor passes through both. -/
theorem gfMul_assoc (a b c : Nibble) : gfMul (gfMul a b) c = gfMul a (gfMul b c) := by
  have hbit : ∀ (t : Bool) (u : Nibble), gfMul a (if t then u else 0#4) = if t then gfMul a u else 0#4 := fun t u => by
    cases t
    · exact gfMul_zero a
    · rfl
  rw [gfMul.eq_def b c, gfMul.eq_def (gfMul a b) c]
  simp only [gfMul_xor, hbit, gfMul_gfDouble]

/-- Settles O59: both clauses are over finite ranges. -/
theorem photonMatrixIsTheEighthSerialPower : Obligations.PhotonMatrixIsTheEighthSerialPower :=
  ⟨by decide, by decide⟩

/-! ### Rows times columns -/

/-- The product of the first `n` entries of a row and of a column, as MixColumnSerial adds it up (48_photon.md R305). -/
def gfDot (n : Nat) (row col : Nat → Nibble) : Nibble :=
  (List.range n).foldl (fun acc k => acc ^^^ gfMul (row k) (col k)) 0#4

theorem gfDot_zero (row col : Nat → Nibble) : gfDot 0 row col = 0#4 := rfl

theorem gfDot_succ (n : Nat) (row col : Nat → Nibble) :
    gfDot (n + 1) row col = gfDot n row col ^^^ gfMul (row n) (col n) := by
  simp [gfDot, List.range_succ]

theorem gfDot_xor (n : Nat) (row row' col : Nat → Nibble) :
    gfDot n (fun k => row k ^^^ row' k) col = gfDot n row col ^^^ gfDot n row' col := by
  induction n with
  | zero => exact BitVec.xor_zero.symm
  | succ n ih =>
    simp only [gfDot_succ, ih, xor_gfMul]
    ac_rfl

theorem gfDot_gfMul (n : Nat) (c : Nibble) (row col : Nat → Nibble) :
    gfDot n (fun k => gfMul c (row k)) col = gfMul c (gfDot n row col) := by
  induction n with
  | zero => exact (gfMul_zero c).symm
  | succ n ih => rw [gfDot_succ, gfDot_succ, ih, gfMul_xor, gfMul_assoc]

theorem gfDot_congr {n : Nat} {row row' : Nat → Nibble} (col : Nat → Nibble) (h : ∀ k, k < n → row k = row' k) :
    gfDot n row col = gfDot n row' col := by
  induction n with
  | zero => rfl
  | succ n ih => rw [gfDot_succ, gfDot_succ, ih fun k hk => h k (by omega), h n (by omega)]

/-- The unit row j picks entry j of a column. -/
theorem gfDot_unit (n j : Nat) (col : Nat → Nibble) :
    gfDot n (fun k => if j = k then 1#4 else 0#4) col = if j < n then col j else 0#4 := by
  induction n with
  | zero => rfl
  | succ n ih =>
    rw [gfDot_succ, ih]
    rcases Nat.lt_trichotomy j n with hlt | rfl | hgt
    · rw [if_pos hlt, if_neg (by omega), if_pos (by omega), zero_gfMul, BitVec.xor_zero]
    · rw [if_neg (by omega), if_pos rfl, if_pos (by omega), one_gfMul, BitVec.zero_xor]
    · rw [if_neg (by omega), if_neg (by omega), if_neg (by omega), zero_gfMul, BitVec.xor_zero]

/-! ### MixColumnSerial as eight serial steps (48_photon.md R305) -/

/-- A step of the serial matrix is linear. -/
theorem photonSerialStep_gfDot (n : Nat) (rows : Nat → Nat → Nibble) (col : Nat → Nibble) (i : Nat) :
    photonSerialStep (fun j => gfDot n (rows j) col) i =
      gfDot n (fun k => photonSerialStep (fun j => rows j k) i) col := by
  unfold photonSerialStep
  split
  · rfl
  · simp only [gfDot_xor, gfDot_gfMul]

/-- So are any number of steps. -/
theorem photonSerial_gfDot (m n : Nat) (rows : Nat → Nat → Nibble) (col : Nat → Nibble) (i : Nat) :
    photonSerial m (fun j => gfDot n (rows j) col) i = gfDot n (fun k => photonSerial m (fun j => rows j k) i) col := by
  induction m generalizing rows with
  | zero => rfl
  | succ m ih =>
    have hstep := funext (photonSerialStep_gfDot n rows col)
    rw [photonSerial, hstep, ih]
    rfl

/-- The serial steps look at the eight cells of a column only. -/
theorem photonSerial_congr (m : Nat) {col col' : Nat → Nibble} (h : ∀ i, i < 8 → col i = col' i) {i : Nat} (hi : i < 8) :
    photonSerial m col i = photonSerial m col' i := by
  induction m generalizing col col' with
  | zero => exact h i hi
  | succ m ih =>
    refine ih fun j hj => ?_
    unfold photonSerialStep
    split
    · exact h (j + 1) (by omega)
    · simp only [h, Nat.reduceLT]

/-- Row i of M on a column is cell i after eight serial steps: a column is the sum of its cells times unit columns, of which
O59 gives what the steps make. -/
theorem gfDot_photonM (col : Nat → Nibble) {i : Nat} (hi : i < 8) :
    gfDot 8 (photonM i) col = photonSerial 8 col i := by
  obtain ⟨-, hmatrix⟩ := photonMatrixIsTheEighthSerialPower
  calc gfDot 8 (photonM i) col
      = gfDot 8 (fun k => photonSerial 8 (fun j => if j = k then 1#4 else 0#4) i) col :=
        gfDot_congr col fun k hk => hmatrix ⟨i, hi⟩ ⟨k, hk⟩
    _ = photonSerial 8 (fun j => gfDot 8 (fun k => if j = k then 1#4 else 0#4) col) i :=
        (photonSerial_gfDot 8 8 (fun j k => if j = k then 1#4 else 0#4) col i).symm
    _ = photonSerial 8 col i := photonSerial_congr 8 (fun j hj => by rw [gfDot_unit, if_pos hj]) hi

/-! ### One round (48_photon.md R301 to R305) -/

theorem photonCell_eq_getElem (x : PhotonCells) {r c : Nat} (hr : r < 8) (hc : c < 8) :
    photonCell x r c = x[8 * r + c] := by
  rw [photonCell, Vector.getElem?_eq_getElem (by omega), Option.getD_some]

theorem photonCell_tabulate (f : Fin 64 → Nibble) {r c : Nat} (hr : r < 8) (hc : c < 8) :
    photonCell (tabulate 64 f) r c = f ⟨8 * r + c, by omega⟩ := by
  rw [photonCell_eq_getElem _ hr hc, tabulate_getElem]

theorem photonNibble_eq_photonCell (w : Words) {r c : Nat} (hr : r < 8) (hc : c < 8) :
    photonNibble w r c = photonCell (photonLoad w) r c := by
  rw [photonCell_photonLoad w hr hc, photonNibble, Vector.getElem?_eq_getElem (by omega), Option.getD_some]

theorem photonAddConstant_cell (t : Nat) (x : PhotonCells) {r c : Nat} (hr : r < 8) (hc : c < 8) :
    photonCell (photonAddConstant t x) r c =
      if c = 0 then photonCell x r 0 ^^^ photonRoundConstant t ^^^ photonRowConstant r else photonCell x r c := by
  rw [photonAddConstant, photonCell_tabulate _ hr hc, photonCell_eq_getElem x hr hc]
  simp only [Fin.getElem_fin, show (8 * r + c) % 8 = c by omega, show (8 * r + c) / 8 = r by omega]
  split
  · next h0 =>
    subst h0
    rw [photonCell_eq_getElem x hr hc]
  · rfl

theorem photonSubCells_cell (x : PhotonCells) {r c : Nat} (hr : r < 8) (hc : c < 8) :
    photonCell (photonSubCells x) r c = photonSbox (photonCell x r c) := by
  rw [photonSubCells, photonCell_tabulate _ hr hc, photonCell_eq_getElem x hr hc, Fin.getElem_fin]

theorem photonShiftRows_cell (x : PhotonCells) {r c : Nat} (hr : r < 8) (hc : c < 8) :
    photonCell (photonShiftRows x) r c = photonCell x r ((c + r) % 8) := by
  rw [photonShiftRows, photonCell_tabulate _ hr hc]
  simp only [show (8 * r + c) % 8 = c by omega, show (8 * r + c) / 8 = r by omega]

theorem photonMixColumns_cell (x : PhotonCells) {r c : Nat} (hr : r < 8) (hc : c < 8) :
    photonCell (photonMixColumns x) r c = photonSerial 8 (fun k => photonCell x k c) r := by
  rw [← gfDot_photonM _ hr, photonMixColumns, photonCell_tabulate _ hr hc]
  simp only [show (8 * r + c) % 8 = c by omega, show (8 * r + c) / 8 = r by omega]
  rfl

theorem photonCell_eq_photonShifted (t : Nat) (w : Words) {r c : Nat} (hr : r < 8) (hc : c < 8) :
    photonCell (photonShiftRows (photonSubCells (photonAddConstant t (photonLoad w)))) r c = photonShifted t w r c := by
  have hfrom : (c + r) % 8 < 8 := Nat.mod_lt _ (by decide)
  rw [photonShiftRows_cell _ hr hc, photonSubCells_cell _ hr hfrom, photonAddConstant_cell _ _ hr hfrom,
    ← photonNibble_eq_photonCell w hr (by decide), ← photonNibble_eq_photonCell w hr hfrom]
  rfl

theorem photonRounds_one_photonRound (t : Nat) (w : Words) : PhotonRound t w (photonRounds t 1 w) := by
  refine ⟨sameFrom_photonRounds t 1 w, fun i j hi hj => ?_⟩
  have hload : photonLoad (photonRounds t 1 w) = photonRound t (photonLoad w) := loadsStored_photon.load_overlay w _
  rw [photonNibble_eq_photonCell _ hi hj, hload, photonRound, photonMixColumns_cell _ hi hj]
  exact photonSerial_congr 8 (fun k hk => photonCell_eq_photonShifted t w hk hj) hi

/-- Settles O48: cells are stored and loaded again from round to round, and each round is that of R301 to R305 on cells. -/
theorem roundsPhotonRunsItsRounds : Obligations.RoundsPhotonRunsItsRounds := by
  intro s start count hpresent hrange hlayout
  refine ⟨photonRounds start.toNat count.toNat s.w, ?_, completesRounds_photon s start count hrange hpresent hlayout⟩
  exact runsRounds_of_add s.w (photonRounds_zero _ _) (fun n => photonRounds_add _ n 1 s.w)
    fun r w _ => photonRounds_one_photonRound r w

end Sys2Proof.Machine

/-! ## Xoodoo, lane by lane (49_xoodoo.md R320 to R326) -/

namespace Sys2Proof.Machine

/-! ### Lanes -/

theorem lane_planes (f : Nat → Nat → Word) (y x : Nat) : lane (planes f) y x = f (y % 3) (x % 4) := by
  rw [lane, planes, tabulate_getElem]
  simp only [show (4 * (y % 3) + x % 4) / 4 = y % 3 by omega, show (4 * (y % 3) + x % 4) % 4 = x % 4 by omega]

/-- Planes are taken modulo 3, lanes modulo 4. -/
theorem lane_congr (a : XoodooState) {y y' x x' : Nat} (hy : y % 3 = y' % 3) (hx : x % 4 = x' % 4) :
    lane a y x = lane a y' x' := by
  simp only [lane, hy, hx]

theorem xoodooLane_eq_lane (w : Words) (y x : Nat) : xoodooLane w y x = lane (xoodooLoad w) y x := by
  rw [xoodooLane, lane, xoodooLoad, tabulate_getElem, Vector.getElem?_eq_getElem (by omega), Option.getD_some]

/-! ### The layers of a round (49_xoodoo.md R322 to R326) -/

theorem lane_eq_xoodooMixed (w : Words) (y x : Nat) : lane (xoodooTheta (xoodooLoad w)) y x = xoodooMixed w y x := by
  have hparity : xoodooParity (xoodooLoad w) (x % 4 + 3) = xoodooParity (xoodooLoad w) (x + 3) := by
    simp only [xoodooParity, lane_congr (xoodooLoad w) rfl (show (x % 4 + 3) % 4 = (x + 3) % 4 by omega)]
  rw [xoodooTheta, lane_planes, xoodooEffect, hparity, lane_congr (xoodooLoad w) (Nat.mod_mod y 3) (Nat.mod_mod x 4),
    ← BitVec.xor_assoc]
  simp only [xoodooMixed, xoodooLane_eq_lane, xoodooParity]

theorem rotateLeft_zero (v : Word) : v.rotateLeft 0 = v :=
  BitVec.eq_of_getLsbD_eq fun i hi => by simp [hi]

theorem shiftedLane_eq (a : XoodooState) (t v y : Nat) {x x' : Nat} (h : (x + 4 - t) % 4 = x' % 4) :
    shiftedLane a t v y x = (lane a y x').rotateLeft v := by
  rw [shiftedLane, lane_congr a rfl h]

theorem xoodooRhoWest_lane (a : XoodooState) (x : Nat) :
    lane (xoodooRhoWest a) 0 x = lane a 0 x ∧ lane (xoodooRhoWest a) 1 x = lane a 1 (x + 3) ∧
      lane (xoodooRhoWest a) 2 x = (lane a 2 x).rotateLeft 11 := by
  simp only [xoodooRhoWest, lane_planes]
  refine ⟨lane_congr a rfl (Nat.mod_mod x 4), ?_, shiftedLane_eq a 0 11 2 (by omega)⟩
  exact (shiftedLane_eq a 1 0 1 (x' := x + 3) (by omega)).trans (rotateLeft_zero _)

theorem xoodooIota_lane (r : Nat) (a : XoodooState) (x : Nat) :
    lane (xoodooIota r a) 0 x = lane a 0 x ^^^ (if x % 4 = 0 then xoodooConstant r else 0#32) ∧
      lane (xoodooIota r a) 1 x = lane a 1 x ∧ lane (xoodooIota r a) 2 x = lane a 2 x := by
  simp only [xoodooIota, lane_planes]
  refine ⟨?_, lane_congr a rfl (Nat.mod_mod x 4), lane_congr a rfl (Nat.mod_mod x 4)⟩
  rcases Nat.eq_zero_or_pos (x % 4) with hx | hx
  · simp [hx, lane_congr a rfl (show 0 % 4 = x % 4 from hx.symm)]
  · simp [hx.ne', lane_congr a rfl (Nat.mod_mod x 4)]

theorem lane_eq_xoodooWest (r : Nat) (w : Words) (y x : Nat) :
    lane (xoodooIota r (xoodooRhoWest (xoodooTheta (xoodooLoad w)))) y x = xoodooWest r w y x := by
  obtain ⟨hwest0, hwest1, hwest2⟩ := xoodooRhoWest_lane (xoodooTheta (xoodooLoad w)) x
  obtain ⟨hiota0, hiota1, hiota2⟩ := xoodooIota_lane r (xoodooRhoWest (xoodooTheta (xoodooLoad w))) x
  have hplane : y % 3 = 0 ∨ y % 3 = 1 ∨ y % 3 = 2 := by omega
  rcases hplane with hy | hy | hy
  · rw [lane_congr _ (show y % 3 = 0 % 3 from hy) rfl, hiota0, hwest0, lane_eq_xoodooMixed]
    simp only [xoodooWest, hy]
  · rw [lane_congr _ (show y % 3 = 1 % 3 from hy) rfl, hiota1, hwest1, lane_eq_xoodooMixed]
    simp only [xoodooWest, hy]
  · rw [lane_congr _ (show y % 3 = 2 % 3 from hy) rfl, hiota2, hwest2, lane_eq_xoodooMixed]
    simp only [xoodooWest, hy]

theorem xoodooChi_lane (a : XoodooState) (y x : Nat) :
    lane (xoodooChi a) y x = lane a y x ^^^ (~~~lane a (y + 1) x &&& lane a (y + 2) x) := by
  rw [xoodooChi, lane_planes, lane_congr a (Nat.mod_mod y 3) (Nat.mod_mod x 4),
    lane_congr a (show (y % 3 + 1) % 3 = (y + 1) % 3 by omega) (Nat.mod_mod x 4),
    lane_congr a (show (y % 3 + 2) % 3 = (y + 2) % 3 by omega) (Nat.mod_mod x 4)]

theorem xoodooRhoEast_lane (a : XoodooState) (x : Nat) :
    lane (xoodooRhoEast a) 0 x = lane a 0 x ∧ lane (xoodooRhoEast a) 1 x = (lane a 1 x).rotateLeft 1 ∧
      lane (xoodooRhoEast a) 2 x = (lane a 2 (x + 2)).rotateLeft 8 := by
  simp only [xoodooRhoEast, lane_planes]
  exact ⟨lane_congr a rfl (Nat.mod_mod x 4), shiftedLane_eq a 0 1 1 (by omega), shiftedLane_eq a 2 8 2 (by omega)⟩

theorem lane_eq_xoodooNonlinear (r : Nat) (w : Words) (y x : Nat) :
    lane (xoodooChi (xoodooIota r (xoodooRhoWest (xoodooTheta (xoodooLoad w))))) y x = xoodooNonlinear r w y x := by
  simp only [xoodooChi_lane, lane_eq_xoodooWest, xoodooNonlinear]

/-! ### Rounds (49_xoodoo.md R321) -/

theorem xoodooRounds_one_xoodooRound (r : Nat) (w : Words) : XoodooRound r w (xoodooRounds r 1 w) := by
  refine ⟨sameFrom_xoodooRounds r 1 w, fun x _ => ?_⟩
  have hload : xoodooLoad (xoodooRounds r 1 w) = xoodooRound r (xoodooLoad w) := loadsStored_xoodoo.load_overlay w _
  simp only [xoodooLane_eq_lane, hload, ← lane_eq_xoodooNonlinear]
  exact xoodooRhoEast_lane _ x

/-- Settles O49: lanes are stored and loaded again from round to round, and each round is that of R321 to R326 on lanes. -/
theorem roundsXoodooRunsItsRounds : Obligations.RoundsXoodooRunsItsRounds := by
  intro s start count hpresent hrange hlayout
  refine ⟨xoodooRounds start.toNat count.toNat s.w, ?_, completesRounds_xoodoo s start count hrange hpresent hlayout⟩
  exact runsRounds_of_add s.w (xoodooRounds_zero _ _) (fun n => xoodooRounds_add _ n 1 s.w)
    fun r w _ => xoodooRounds_one_xoodooRound r w

end Sys2Proof.Machine
